-- ==== Sys2Proof/Word.lean ====
section
/-! DEFINITION. The word types of the engine: registers, binary32 patterns, masks, pixels, host bytes. -/
namespace Sys2Proof

/-- A 32-bit register or command word (spec 10_state R30, 30_encoding R80). -/
abbrev Word := BitVec 32

/-- A byte of the register window (20_memory R65). -/
abbrev Byte := BitVec 8

/-- A binary32 pattern: sign in bit 31, biased exponent in 30:23, fraction in 22:0 (00_scope R12). -/
abbrev Binary32 := BitVec 32

/-- A 64-lane mask; bit i belongs to lane i (10_state R41, 41_tilemask R132). -/
abbrev Mask := BitVec 64

/-- A pixel value. An engine's pixels have PIXEL_BITS(e) ≤ 128 bits (10_state R22); they are kept
zero-extended to 128 bits, and `Safety` states that no bit at or above PIXEL_BITS(e) is ever set. -/
abbrev Pixel := BitVec 128

/-- A tile number t (00_scope R15). -/
abbrev Tile := Fin 16

/-- A lane index, the source's TileIndex (00_scope R15, 40_lane_primitives R107). -/
abbrev Lane := Fin 64

/-- 64 binary32 values in lane order, element i for lane i (10_state R26). -/
abbrev Grid := Vector Binary32 64

end Sys2Proof
end

