-- ==== Sys2Proof/Config.lean ====
section
/-! DEFINITION. What an implementation fixes (the platform record) and what the spec leaves free (opaque constants). -/
namespace Sys2Proof

/-- The three binary32 operations of 40_lane_primitives R100, as an argument of `nan_draw`. -/
inductive FpOp where
  | add
  | sub
  | mul
deriving DecidableEq, Repr

/-- The number of one use of a free value: which engine uses it, and that engine's running count. -/
structure DrawId where
  engine : Nat
  count : Nat
deriving DecidableEq, Repr

/-- The draw `k` places after `d` on the same engine. -/
def DrawId.plus (d : DrawId) (k : Nat) : DrawId := { d with count := d.count + k }

/-- A free value (93_implementation_defined U2): the bits `nan_draw(op, a, b, n)` is made from.
40_lane_primitives R101 fixes neither the sign nor the payload of a NaN result; assumption log 3. -/
opaque Config.nanBits : DrawId → FpOp → Binary32 → Binary32 → Binary32

/-- A free value (93_implementation_defined U1): WRITE_ORDER, a bijection from push numbers to lanes
(numbered `64 * t + i`), drawn once per WRITE command (42_tile R168); assumption log 4. -/
opaque Config.writeOrder : DrawId → Equiv.Perm (Fin 1024)

/-- The mapping function `map_fn` (45_interfaces R257): pure and fixed for the life of the system,
otherwise open; assumption log 5. -/
opaque Config.mapFn : Word → Pixel → Pixel

/-- An interpolated attribute, of the open type ATTR (00_scope R10, 45_interfaces R254). The engine only
hands it from INTERP to FRAG, so it is an opaque token here; assumption log 6. -/
structure Attr where
  token : Nat
deriving DecidableEq, Repr

/-- Per-engine configuration (10_state R44): PIXEL_BITS(e) and ENGINE_BASE(e). -/
structure EngineConfig where
  pixelBits : Nat
  base : Nat
deriving DecidableEq, Repr

/-- The configuration of the system (10_state R44, 92_eei_decisions "OPEN parameters"): one entry per
engine, the signature table `map_sig`, and BUS_ERROR_ON_BAD_ACCESS. No step changes it (70_reset R302). -/
structure Platform where
  engines : List EngineConfig
  mapSig : List (Word × Nat × Nat)
  busErrorOnBadAccess : Bool
deriving DecidableEq, Repr

/-- NUM_ENGINES (00_scope R10). -/
def Platform.numEngines (c : Platform) : Nat := c.engines.length

/-- PIXEL_BITS(e); 0 for an engine that does not exist. -/
def Platform.pixelBits (c : Platform) (e : Nat) : Nat :=
  match c.engines[e]? with
  | some k => k.pixelBits
  | none => 0

/-- ENGINE_BASE(e); 0 for an engine that does not exist. -/
def Platform.base (c : Platform) (e : Nat) : Nat :=
  match c.engines[e]? with
  | some k => k.base
  | none => 0

/-- `map_sig(m)` (45_interfaces R257): the widths map_fn takes and gives for the selector m, if any. -/
def Platform.signature (c : Platform) (m : Word) : Option (Nat × Nat) := c.mapSig.lookup m

/-- What the spec requires of a configuration: 1 ≤ NUM_ENGINES ≤ 256, 1 ≤ PIXEL_BITS(e) ≤ 128, and
0x100-byte windows that do not overlap (00_scope R10, 20_memory R60, R70). -/
abbrev Platform.Wf (c : Platform) : Prop :=
  1 ≤ c.numEngines ∧ c.numEngines ≤ 256 ∧
  (∀ k ∈ c.engines, 1 ≤ k.pixelBits ∧ k.pixelBits ≤ 128) ∧
  c.engines.Pairwise (fun a b => a.base + 0x100 ≤ b.base ∨ b.base + 0x100 ≤ a.base)

/-- DESIGN CHOICE (assumption log 1): the configuration of `State.reset`. It is the one the spec's own
MAP vectors use (95_test_vectors section 8), with the window bases of its programs (section 10). Every
statement about runs is over an arbitrary configuration; only `State.reset` itself stands at this one. -/
def Platform.vectors : Platform where
  engines := [⟨32, 0x000⟩, ⟨8, 0x100⟩, ⟨32, 0x200⟩]
  mapSig := [(3, 32, 8), (4, 32, 32)]
  busErrorOnBadAccess := false

end Sys2Proof
end

