-- ==== Sys2Proof/Syntax.lean ====
section
/-! DEFINITION. The command set: one constructor per row of spec/opcode_table.json. -/
namespace Sys2Proof

/-- The engine's commands (30_encoding R81, R88). Operands travel in parameter registers; only MAP carries
a field, the source engine's id (R82). -/
inductive Instr where
  /-- CLEAR: reset all depth to 1.0 and all color to the fill pixel (44_commands R210). -/
  | clear
  /-- RASTER: rasterize one triangle over the 32×32 block (44_commands R215). -/
  | raster
  /-- WRITE: push all 1024 pixels to the sink (44_commands R225). -/
  | write
  /-- MAP src: replace this engine's COLOR with the mapped COLOR of engine `src` (44_commands R230). -/
  | map (src : Nat)
deriving DecidableEq, Repr

end Sys2Proof
end

