-- ==== Sys2Proof/WellFormed.lean ====
section
/-! DEFINITION. Which instructions have an encoding. -/
namespace Sys2Proof

/-- SRC is an 8-bit field (30_encoding R80, R82), so a MAP's source id is below 256 (R89). -/
def srcEncodable (src : Nat) : Bool := decide (src < 256)

/-- An instruction is well formed when its fields fit its encoding. -/
def Instr.wellFormed : Instr → Bool
  | .clear => true
  | .raster => true
  | .write => true
  | .map src => srcEncodable src

end Sys2Proof
end

