-- ==== Sys2Proof/Decode.lean ====
section
/-! DEFINITION. The decoder, total on all words and on any bytes, and after it the encoder. -/
namespace Sys2Proof

/-- Why a word is ILLEGAL, one name per item of 30_encoding R86. -/
inductive Illegal where
  /-- `word[31:16]` or `word[7:4]` is not zero. Raised by `decode`; safe: the engine drops the word. -/
  | reservedBits
  /-- OPC is 0x0 or 0x5..0xF. Raised by `decode`; safe: the engine drops the word. -/
  | reservedOpcode
  /-- CLEAR, RASTER or WRITE with SRC not zero. Raised by `decode`; safe: the engine drops the word. -/
  | srcNotZero
  /-- Fewer than four bytes were given, so there is no command word. Raised by `decodeBytes`; safe. -/
  | truncated
deriving DecidableEq, Repr

/-- OPC, bits 3:0 (30_encoding R80). -/
def opcField (w : Word) : BitVec 4 := w.extractLsb' 0 4

/-- RES0, bits 7:4 (30_encoding R80). -/
def res0Field (w : Word) : BitVec 4 := w.extractLsb' 4 4

/-- SRC, bits 15:8 (30_encoding R80). -/
def srcField (w : Word) : BitVec 8 := w.extractLsb' 8 8

/-- RES1, bits 31:16 (30_encoding R80). -/
def res1Field (w : Word) : BitVec 16 := w.extractLsb' 16 16

/-- A command whose SRC must be 0 (30_encoding R80, R84). -/
def noSrc (w : Word) (i : Instr) : Except Illegal Instr :=
  if srcField w = 0 then .ok i else .error .srcNotZero

/-- The decoder of 30_encoding R84, total on all 2^32 words. -/
def decode (w : Word) : Except Illegal Instr :=
  if res1Field w ≠ 0 ∨ res0Field w ≠ 0 then .error .reservedBits
  else match (opcField w).toNat with
    | 1 => noSrc w .clear
    | 2 => noSrc w .raster
    | 3 => noSrc w .write
    | 4 => .ok (.map (srcField w).toNat)
    | _ => .error .reservedOpcode

/-- Four bytes as a register holds them, the first at the lowest offset (little-endian, 20_memory R65). -/
def wordOfBytes (b0 b1 b2 b3 : Byte) : Word := b3 ++ b2 ++ b1 ++ b0

/-- The command word at the head of a byte string, and the bytes after it. -/
def decodeBytes : List Byte → Except Illegal (Instr × List Byte)
  | b0 :: b1 :: b2 :: b3 :: rest => (decode (wordOfBytes b0 b1 b2 b3)).map (·, rest)
  | _ => .error .truncated

/-- Byte `j` of a register's value: bits `8j+7 : 8j` (20_memory R65). -/
def byteOfWord (w : Word) (j : Nat) : Byte := w.extractLsb' (8 * j) 8

/-- The bytes of a word in the window's byte order, lowest offset first (20_memory R65). -/
def bytesOfWord (w : Word) : List Byte := (List.range 4).map (byteOfWord w)

/-- What the decoder reads from an instruction of `nbits` bits whose value is `w`, every bit above them 0.
A command word is exactly 32 bits (30_encoding R87). -/
def decodeTableWord (nbits w : Nat) : Option Instr :=
  match decodeBytes (bytesOfWord (BitVec.ofNat 32 (w % 2 ^ nbits))) with
  | .ok (i, _) => some i
  | .error _ => none

/-- Format C (30_encoding R80): RES1 = 0, SRC, RES0 = 0, OPC. -/
def formatC (opc : BitVec 4) (src : BitVec 8) : Word := (0 : BitVec 16) ++ src ++ (0 : BitVec 4) ++ opc

/-- The word of an instruction (30_encoding R81, R89). -/
def encode : Instr → Word
  | .clear => formatC 1 0
  | .raster => formatC 2 0
  | .write => formatC 3 0
  | .map src => formatC 4 (BitVec.ofNat 8 src)

/-- The bytes of an instruction in the window's byte order. -/
def encodeBytes (i : Instr) : List Byte := bytesOfWord (encode i)

/-- Mask and match of an instruction's row (30_encoding R85). -/
def maskMatch : Instr → Word × Word
  | .clear => (0xFFFFFFFF, 0x00000001)
  | .raster => (0xFFFFFFFF, 0x00000002)
  | .write => (0xFFFFFFFF, 0x00000003)
  | .map _ => (0xFFFF00FF, 0x00000004)

end Sys2Proof
end

