-- ==== Sys2Proof/Machine/State.lean ====
section
/-! DEFINITION. The machine's state as plain data, the reasons a step can stop, and the state after reset. -/
namespace Sys2Proof.Machine

/-! ## Pieces of an engine -/

/-- The sequencer position SEQ (10_state R40). -/
inductive Phase where
  | idle
  | clr
  | rEval (t : Tile)
  | rCover (t : Tile)
  | rDepth (t : Tile)
  | rInterp (t : Tile) (i : Lane)
  | rFrag (t : Tile) (i : Lane)
  | rBlend (t : Tile) (i : Lane)
  | wPush (k : Fin 1024)
  | mMap (t : Tile) (i : Lane)
deriving DecidableEq, Repr

/-- The sixteen parameter registers, in the order of their offsets (10_state R30). -/
inductive Param where
  | posX | posY | scaleX | scaleY | z0 | z1 | z2 | triId | shaderId | mapId | originX | originY
  | fill0 | fill1 | fill2 | fill3
deriving DecidableEq, Repr

/-- The place of a parameter register in the register file: its offset is `0x10 + 4 * place`. -/
def Param.place : Param → Fin 16
  | .posX => 0 | .posY => 1 | .scaleX => 2 | .scaleY => 3 | .z0 => 4 | .z1 => 5 | .z2 => 6
  | .triId => 7 | .shaderId => 8 | .mapId => 9 | .originX => 10 | .originY => 11
  | .fill0 => 12 | .fill1 => 13 | .fill2 => 14 | .fill3 => 15

/-- A lane buffer: 16 tiles of 64 lanes, each element unwritten (`none`) or a value (10_state R21, R22, R27). -/
abbrev Buffer (α : Type) := Vector (Vector (Option α) 64) 16

/-- A pair of binary32 values: a position or a scale (30_encoding R83). -/
structure Point where
  x : Binary32
  y : Binary32
deriving DecidableEq, Repr

/-- A request on a port, with the arguments fixed when it was issued (45_interfaces R250–R258). -/
inductive Request where
  | eval (tri : Word) (pos scale : Point)
  | interp (tri : Word) (w u v : Binary32)
  | frag (shader : Word) (attr : Attr)
  | blend (shader : Word) (old new : Pixel)
  | push (x y : Word) (p : Pixel)
deriving DecidableEq, Repr

/-- A port agent's response (45_interfaces R262); `ack` is the sink's acceptance of a push. -/
inductive Response where
  | eval (u v : Grid)
  | interp (attr : Attr)
  | frag (p : Pixel)
  | blend (p : Pixel)
  | ack
deriving DecidableEq, Repr

/-- The engine's one port transaction (45_interfaces R250): none, a request waiting for its agent, or a
request whose response has come and which the engine takes in its next step. -/
inductive PortState where
  | quiet
  | waiting (r : Request)
  | answered (r : Request) (a : Response)
deriving DecidableEq, Repr

/-- The transient registers (10_state R41). `none` is "unwritten by a rule of the current command": reading
one then is the model fault of 60_exceptions R284. -/
structure Transients where
  u : Option Grid
  v : Option Grid
  w : Option Grid
  z : Option Grid
  mask : Option Mask
  cur : Option Mask
  lane : Option Lane
  pt : Option Point
  attr : Option Attr
  newpix : Option Pixel
  pushk : Option (Fin 1024)
deriving DecidableEq, Repr

/-- Every transient register unwritten. -/
def Transients.unwritten : Transients :=
  ⟨none, none, none, none, none, none, none, none, none, none, none⟩

/-- The snapshot registers S_<name> and S_SRC (10_state R36), unwritten until the current command's
acceptance step writes them (60_exceptions R284). `order` is the model's own: the number of the
WRITE_ORDER draw that the current WRITE made (42_tile R168; assumption log 4). -/
structure Snapshot where
  regs : Vector (Option Word) 16
  src : Option (BitVec 8)
  order : Option Nat
deriving DecidableEq, Repr

/-- Every snapshot register unwritten. -/
def Snapshot.unwritten : Snapshot := ⟨Vector.replicate 16 none, none, none⟩

/-- One engine's state (10_state R20, R46). -/
structure Engine where
  /-- DEPTH[t][i] (R21). -/
  depth : Buffer Binary32
  /-- COLOR[t][i] (R22). -/
  color : Buffer Pixel
  /-- The parameter registers' values, by place (R35). -/
  params : Vector Word 16
  /-- Their VALID bits (R37). -/
  valid : Vector Bool 16
  /-- STATUS.BUSY (R39). -/
  busy : Bool
  /-- STATUS.FAULT (R32). -/
  fault : Bool
  /-- STATUS.INIT (R38). -/
  init : Bool
  /-- STATUS.LOCKED (R39). -/
  locked : Bool
  /-- STATUS.FAULT_CODE (R32). -/
  code : BitVec 4
  /-- SEQ (R40). -/
  seq : Phase
  /-- The transient registers (R41). -/
  tr : Transients
  /-- The snapshot registers (R36). -/
  snap : Snapshot
  /-- The port transaction in progress (45_interfaces R250). -/
  port : PortState
  /-- The MODEL's own: how many binary32 operation instances this engine has run (40_lane_primitives R101's
  `n`; assumption log 3). -/
  fpDraws : Nat
  /-- The MODEL's own: how many WRITE_ORDER draws this engine has made (assumption log 4). -/
  writeDraws : Nat
deriving DecidableEq, Repr

/-- One engine right after reset (10_state R46). -/
def Engine.reset : Engine where
  depth := Vector.replicate 16 (Vector.replicate 64 none)
  color := Vector.replicate 16 (Vector.replicate 64 none)
  params := Vector.replicate 16 0
  valid := Vector.replicate 16 false
  busy := false
  fault := false
  init := false
  locked := false
  code := 0
  seq := .idle
  tr := .unwritten
  snap := .unwritten
  port := .quiet
  fpDraws := 0
  writeDraws := 0

/-! ## The system -/

/-- What acts next (00_scope R19): the host, an engine, a port agent, or the reset input. -/
inductive Event where
  /-- `MemWrite(addr, width, v)` by the host (00_scope R13, 20_memory R62, R64). -/
  | hostWrite (addr width : Nat) (v : Word)
  /-- `MemRead(addr, width)` by the host (20_memory R63, R64). -/
  | hostRead (addr width : Nat)
  /-- The host's `WAIT` on the register at `addr`: it repeats `MemRead(addr, 4)` until bit 0 of the value read is 0
  and makes no other access before that (30_encoding R91; assumption log 18). -/
  | hostWait (addr : Nat)
  /-- Engine `e` takes its next step, if it has one (44_commands R216, 60_exceptions R291). -/
  | engine (e : Nat)
  /-- The agent of engine `e`'s outstanding request answers it (45_interfaces R250, R259). -/
  | answer (e : Nat) (a : Response)
  /-- The reset input is asserted (`true`) or released (`false`) (70_reset R300). -/
  | reset (asserted : Bool)
deriving DecidableEq, Repr

/-- One entry of the system's history (45_interfaces R259). -/
inductive Obs where
  | hostWrote (e off : Nat) (v : Word)
  | hostRead (e off : Nat) (v : Word)
  | request (e : Nat) (r : Request)
  | response (e : Nat) (a : Response)
  | reset (asserted : Bool)
deriving DecidableEq, Repr

/-- The state of the whole system: every engine, what the outside world does next, and what it has seen. -/
structure State where
  /-- The configuration (10_state R44); no step changes it. -/
  cfg : Platform
  /-- The engines, engine e at index e (60_exceptions R291). -/
  engines : List Engine
  /-- The level of the reset input: while it is asserted the engines stay as reset leaves them (70_reset R300). -/
  inReset : Bool
  /-- The coming events, the next one first: the interleaving of the agents is data, not a rule. -/
  inputs : List Event
  /-- The MODEL's own: the engine whose CMD register the host's current command word is written to, the
  `e` of `present(e, word)` (60_exceptions R276). -/
  target : Nat
  /-- The history (45_interfaces R259), the newest entry first. -/
  history : List Obs
deriving DecidableEq, Repr

/-- Why a step stops with a model fault. -/
inductive Fault where
  /-- A DEPTH or COLOR element was read while unwritten. Raised by RASTER's, WRITE's and MAP's element reads
  (10_state R27, 60_exceptions R284); safe: the model supplies no value. -/
  | unwrittenElement
  /-- A transient register was read before a rule of the current command wrote it. Raised by the engine steps
  (60_exceptions R284); safe. -/
  | unwrittenTransient
  /-- A snapshot register was read before the current command's acceptance wrote it. Raised by the engine
  steps (60_exceptions R284); safe. -/
  | unwrittenSnapshot
  /-- A command or a register access is directed to an engine that the state does not hold. Raised by the
  meanings and the register accesses; safe, and no reachable state raises it. -/
  | noSuchEngine
  /-- A host access to an address in no engine's window. Raised by host accesses (20_memory R60, R70); safe. -/
  | unmappedAddress
deriving DecidableEq, Repr

/-- Why a step is refused. -/
inductive Refusal where
  /-- An instruction that has no meaning yet. Raised by `exec`'s refused arms, of which there is none; safe. -/
  | notModelled (mnemonic : String)
  /-- A host access that is not a 32-bit aligned word: 20_memory R64 gives it no step. Raised by host accesses;
  safe. `busError` is the platform's BUS_ERROR_ON_BAD_ACCESS: whether the bus reports an error for it. -/
  | badAccess (busError : Bool)
deriving DecidableEq, Repr

/-- The system right after reset, on the configuration `c` (10_state R46, 70_reset R300): every engine as
`Engine.reset`, the reset input released, nothing pending, nothing observed. -/
def State.resetOn (c : Platform) : State where
  cfg := c
  engines := c.engines.map fun _ => Engine.reset
  inReset := false
  inputs := []
  target := 0
  history := []

/-- The machine right after reset, on the configuration of assumption log 1. -/
def State.reset : State := State.resetOn Platform.vectors

/-- The result of one step of this machine. -/
abbrev Outcome := Host.Outcome State Fault Refusal

end Sys2Proof.Machine
end

