-- ==== Sys2Proof/Machine/Binary32.lean ====
section
/-! DEFINITION. IEEE 754 binary32 addition, subtraction and multiplication, round to nearest even
(40_lane_primitives R100–R102). -/
namespace Sys2Proof.Machine

/-- 1.0, the far plane and the minuend of `1 - u - v` (00_scope R12). -/
def f32One : Binary32 := 0x3F800000

/-- +0.0 (00_scope R12). -/
def f32Zero : Binary32 := 0x00000000

/-- 8.0, the size of a tile (40_lane_primitives R106). -/
def f32Eight : Binary32 := 0x41000000

/-- 16.0, the size of a `Quad<Tile>` (40_lane_primitives R106). -/
def f32Sixteen : Binary32 := 0x41800000

/-- The sign bit: what the engine calls negative (40_lane_primitives R105). -/
def f32Sign (a : Binary32) : Bool := a.getLsbD 31

/-- The biased exponent, bits 30:23 (00_scope R12). -/
def f32Exp (a : Binary32) : Nat := (a.extractLsb' 23 8).toNat

/-- The fraction, bits 22:0 (00_scope R12). -/
def f32Frac (a : Binary32) : Nat := (a.extractLsb' 0 23).toNat

def f32IsNaN (a : Binary32) : Bool := f32Exp a == 255 && f32Frac a != 0

def f32IsInf (a : Binary32) : Bool := f32Exp a == 255 && f32Frac a == 0

/-- Neither NaN nor infinite (41_tilemask R143). -/
def f32IsFinite (a : Binary32) : Bool := f32Exp a != 255

/-- The magnitude of a finite value, in units of 2^-149 (the least positive binary32): subnormals have
exponent field 0 and no hidden bit. -/
def f32Mag (a : Binary32) : Nat :=
  if f32Exp a = 0 then f32Frac a else (f32Frac a + 2 ^ 23) <<< (f32Exp a - 1)

/-- The exact value of a finite binary32, in units of 2^-149. -/
def f32Units (a : Binary32) : Int := if f32Sign a then -(f32Mag a : Int) else (f32Mag a : Int)

/-- `m / 2^sh` rounded to the nearest integer, ties to even (40_lane_primitives R100). -/
def roundShift (m sh : Nat) : Nat :=
  let q := m >>> sh
  let r := m - q <<< sh
  if 2 * r > 1 <<< sh ∨ (2 * r = 1 <<< sh ∧ q % 2 = 1) then q + 1 else q

/-- The magnitude bits of the binary32 nearest to `m * 2^(-149 - g)`, ties to even, with gradual underflow
and overflow to infinity (40_lane_primitives R100). `k` is the exponent field less one (0 for subnormals): the
hidden bit of a normal significand, and a carry out of rounding, then add into the exponent field. -/
def roundMag (m g : Nat) : Nat :=
  let k := Nat.log2 m + 1 - 24 - g
  min (k * 2 ^ 23 + roundShift m (k + g)) 0x7F800000

/-- The binary32 with a sign and magnitude bits. -/
def f32Pack (neg : Bool) (mag : Nat) : Binary32 := BitVec.ofNat 32 (mag + if neg then 2 ^ 31 else 0)

/-- A zero of a given sign. -/
def f32SignedZero (neg : Bool) : Binary32 := f32Pack neg 0

/-- `nan_draw(op, a, b, n)` (40_lane_primitives R101): a NaN pattern (exponent all ones, fraction not zero)
and nothing else about it is fixed. A drawn fraction of 0 stands for the quiet bit alone; every NaN pattern
is the draw of some bits, its own. -/
def nanDraw (n : DrawId) (op : FpOp) (a b : Binary32) : Binary32 :=
  let r := Config.nanBits n op a b
  let frac := r.extractLsb' 0 23
  BitVec.ofBool (f32Sign r) ++ (0xFF : BitVec 8) ++ (if frac = 0 then (0x400000 : BitVec 23) else frac)

/-- The sum of two finite values: exact in units of 2^-149, then rounded once. An exact zero sum is +0.0
unless both operands are negative (round to nearest). -/
def addFinite (a b : Binary32) : Binary32 :=
  let s := f32Units a + f32Units b
  if s = 0 then f32SignedZero (f32Sign a && f32Sign b)
  else f32Pack (decide (s < 0)) (roundMag s.natAbs 0)

/-- The sum, with `nan` as the pattern of a NaN result (40_lane_primitives R100, R101). -/
def addWith (nan a b : Binary32) : Binary32 :=
  if f32IsNaN a || f32IsNaN b then nan
  else if f32IsInf a then
    if f32IsInf b && (f32Sign a != f32Sign b) then nan else a
  else if f32IsInf b then b
  else addFinite a b

/-- The value with its sign bit flipped. -/
def f32Neg (a : Binary32) : Binary32 := a ^^^ 0x80000000

/-- `fadd` (40_lane_primitives R100). -/
def fadd (n : DrawId) (a b : Binary32) : Binary32 := addWith (nanDraw n .add a b) a b

/-- `fsub` (40_lane_primitives R100): the sum with the subtrahend negated, a NaN result drawn as a subtraction's. -/
def fsub (n : DrawId) (a b : Binary32) : Binary32 := addWith (nanDraw n .sub a b) a (f32Neg b)

/-- The product of two finite values, exact in units of 2^-298, then rounded once. -/
def mulFinite (a b : Binary32) : Binary32 :=
  let neg := f32Sign a != f32Sign b
  let m := f32Mag a * f32Mag b
  if m = 0 then f32SignedZero neg else f32Pack neg (roundMag m 149)

/-- `fmul` (40_lane_primitives R100, R101). -/
def fmul (n : DrawId) (a b : Binary32) : Binary32 :=
  let neg := f32Sign a != f32Sign b
  if f32IsNaN a || f32IsNaN b then nanDraw n .mul a b
  else if f32IsInf a || f32IsInf b then
    if (f32IsFinite a && f32Mag a == 0) || (f32IsFinite b && f32Mag b == 0) then nanDraw n .mul a b
    else f32Pack neg 0x7F800000
  else mulFinite a b

end Sys2Proof.Machine
end

