-- ==== Sys2Proof/Machine/Lanes.lean ====
section
/-! DEFINITION. The packed-lane operations, and the bit helpers of ITER (40_lane_primitives R103, R104, R118). -/
namespace Sys2Proof.Machine

/-- A grid from its lanes. -/
def gridOf (f : Lane → Binary32) : Grid := Vector.ofFn f

/-- The 64-bit mask whose bit i is `f i`. -/
def maskOf (f : Lane → Bool) : Mask := BitVec.ofFnLE f

/-- `signmask(G)` (R103). -/
def signmask (g : Grid) : Mask := maskOf fun i => f32Sign g[i]

/-- `broadcast(c)` (R104). -/
def broadcast (c : Binary32) : Grid := gridOf fun _ => c

/-- `lanesub(A, B)` (R104); lane i is the operation instance `n i`. -/
def lanesub (n : Lane → DrawId) (a b : Grid) : Grid := gridOf fun i => fsub (n i) a[i] b[i]

/-- `laneadd(A, B)` (R104). -/
def laneadd (n : Lane → DrawId) (a b : Grid) : Grid := gridOf fun i => fadd (n i) a[i] b[i]

/-- `lanemul(A, c)` (R104). -/
def lanemul (n : Lane → DrawId) (a : Grid) (c : Binary32) : Grid := gridOf fun i => fmul (n i) a[i] c

/-- `select(m, A, B)` (R104). -/
def select (m : Mask) (a b : Grid) : Grid := gridOf fun i => if m.getLsbD i then a[i] else b[i]

/-- `popcount(m)` (R118). -/
def popcount (m : Mask) : Nat := (List.finRange 64).countP fun i : Lane => m.getLsbD i.val

/-- `ctz(m)` for m ≠ 0: the least lane whose bit is 1 (R118). (0 for m = 0, which no rule asks for.) -/
def ctz (m : Mask) : Lane := ((List.finRange 64).find? fun i : Lane => m.getLsbD i.val).getD 0

/-- `clearbit(m, i)` (R118). -/
def clearbit (m : Mask) (i : Lane) : Mask := m &&& ~~~(1#64 <<< i.val)

end Sys2Proof.Machine
end

