-- ==== Sys2Proof/Machine/Placement.lean ====
section
/-! DEFINITION. TileIndex, where tiles and lanes stand in the 32×32 block, and RASTER's tile positions
(40_lane_primitives R106–R116, 43_quad_group R190–R196). -/
namespace Sys2Proof.Machine

/-- The TileIndex constructor `index = column*8 + row` (R108). -/
def laneIndex (column row : Fin 8) : Lane := ⟨8 * column.val + row.val, by omega⟩

/-- The low accessor `index[2:0]` (R109). -/
def lo3 (i : Lane) : Fin 8 := ⟨i.val % 8, by omega⟩

/-- The high accessor `index[5:3]` (R110). -/
def hi3 (i : Lane) : Fin 8 := ⟨i.val / 8, by omega⟩

/-- Lane i's horizontal pixel offset in its tile: the low bits (R112, the transposed naming of R111). -/
def dx (i : Lane) : Nat := (lo3 i).val

/-- Lane i's vertical pixel offset in its tile: the high bits (R112). -/
def dy (i : Lane) : Nat := (hi3 i).val

/-- The outer-Quad child index `t[3:2]` (R113). -/
def outerChild (t : Tile) : Fin 4 := ⟨t.val / 4, by omega⟩

/-- The inner-Quad child index `t[1:0]` (R113). -/
def innerChild (t : Tile) : Fin 4 := ⟨t.val % 4, by omega⟩

/-- The column of child k in its Quad, `k[0]` (R114). -/
def childX (k : Fin 4) : Nat := k.val % 2

/-- The row of child k in its Quad, `k[1]` (R114). -/
def childY (k : Fin 4) : Nat := k.val / 2

/-- `size()` of a Tile (43_quad_group R191). -/
def tileSize : Nat := 8

/-- `size()` of a Quad is twice its child's (43_quad_group R191). -/
def quadSize (child : Nat) : Nat := 2 * child

/-- TX(t) (R115): the outer child is a `Quad<Tile>`, the inner one a Tile. -/
def tileX (t : Tile) : Nat := quadSize tileSize * childX (outerChild t) + tileSize * childX (innerChild t)

/-- TY(t) (R115). -/
def tileY (t : Tile) : Nat := quadSize tileSize * childY (outerChild t) + tileSize * childY (innerChild t)

/-- The horizontal offset of lane i of tile t from the block origin (R116). -/
def blockX (t : Tile) (i : Lane) : Nat := tileX t + dx i

/-- The vertical offset of lane i of tile t from the block origin (R116). -/
def blockY (t : Tile) (i : Lane) : Nat := tileY t + dy i

/-- The tile of block pixel (x, y), the inverse of R116. -/
def tileAt (x y : Fin 32) : Tile :=
  ⟨4 * (x.val / 16 + 2 * (y.val / 16)) + (x.val / 8 % 2 + 2 * (y.val / 8 % 2)), by omega⟩

/-- The lane of block pixel (x, y), the inverse of R116. -/
def laneAt (x y : Fin 32) : Lane := ⟨8 * (y.val % 8) + x.val % 8, by omega⟩

/-- `child_extent = scale * child.size()` (43_quad_group R192); two products. -/
def childExtent (n : DrawId) (scale : Point) (size : Binary32) : Point :=
  ⟨fmul n scale.x size, fmul (n.plus 1) scale.y size⟩

/-- A position moved by child k's offset: each component is added, a zero one as +0.0 (43_quad_group R192);
two sums. -/
def childPosition (n : DrawId) (pos : Point) (k : Fin 4) (extent : Point) : Point :=
  ⟨fadd n pos.x (if childX k = 1 then extent.x else f32Zero),
   fadd (n.plus 1) pos.y (if childY k = 1 then extent.y else f32Zero)⟩

/-- How many binary32 operations `tilePosition` runs. -/
def placementOps : Nat := 8

/-- PT(t) (43_quad_group R192): the outer level's sum first, then the inner level's. -/
def tilePosition (n : DrawId) (pos scale : Point) (t : Tile) : Point :=
  let e1 := childExtent n scale f32Sixteen
  let e2 := childExtent (n.plus 2) scale f32Eight
  let p1 := childPosition (n.plus 4) pos (outerChild t) e1
  childPosition (n.plus 6) p1 (innerChild t) e2

/-- The pixel a WRITE pushes for lane i of tile t: `X(t, i)` and `Y(t, i)` (42_tile R169). -/
def pushX (originX : Word) (t : Tile) (i : Lane) : Word := BitVec.ofNat 32 (originX.toNat + blockX t i)

def pushY (originY : Word) (t : Tile) (i : Lane) : Word := BitVec.ofNat 32 (originY.toNat + blockY t i)

/-- The lane numbered `64 * t + i`: the codomain of WRITE_ORDER (42_tile R168). -/
def laneOfNumber (k : Fin 1024) : Tile × Lane := (⟨k.val / 64, by omega⟩, ⟨k.val % 64, by omega⟩)

/-- The number `64 * t + i` of lane i of tile t. -/
def numberOfLane (t : Tile) (i : Lane) : Fin 1024 := ⟨64 * t.val + i.val, by omega⟩

/-- WRITE_ORDER(k) for one draw (42_tile R168). -/
def writeOrder (n : DrawId) (k : Fin 1024) : Tile × Lane := laneOfNumber (Config.writeOrder n k)

/-- The tile visited after t, ascending (43_quad_group R190). -/
def tileAfter (t : Tile) : Option Tile := if h : t.val + 1 < 16 then some ⟨t.val + 1, h⟩ else none

/-- MAP's next lane: i ascending within t ascending (44_commands R231). -/
def laneAfter (t : Tile) (i : Lane) : Option (Tile × Lane) :=
  if h : i.val + 1 < 64 then some (t, ⟨i.val + 1, h⟩) else (tileAfter t).map (·, 0)

end Sys2Proof.Machine
end

