-- ==== Sys2Proof/Machine/Operands.lean ====
section
/-! DEFINITION. Every operand form: the parameter registers, what each command uses, the snapshot, and how its
operands are assembled (10_state R35–R37, 20_memory R66, 30_encoding R83). -/
namespace Sys2Proof.Machine

/-- The parameter register at a window offset (10_state R30). -/
def paramAt (off : Nat) : Option Param :=
  [Param.posX, .posY, .scaleX, .scaleY, .z0, .z1, .z2, .triId, .shaderId, .mapId, .originX, .originY,
    .fill0, .fill1, .fill2, .fill3].find? fun r => off = 0x10 + 4 * r.place.val

/-- A parameter register's value (10_state R35). -/
def Engine.param (g : Engine) (r : Param) : Word := g.params[r.place]

/-- A parameter register's VALID bit (10_state R37). -/
def Engine.isValid (g : Engine) (r : Param) : Bool := g.valid[r.place]

/-- A host write of a parameter register: the value is stored and VALID set (10_state R35, R37). -/
def Engine.setParam (g : Engine) (r : Param) (v : Word) : Engine :=
  { g with params := g.params.set r.place v, valid := g.valid.set r.place true }

/-- NFW(e) = ceil(PIXEL_BITS(e) / 32) (00_scope R10). -/
def fillWords (pixelBits : Nat) : Nat := (pixelBits + 31) / 32

/-- FILL0..FILL(NFW-1) (10_state R36). -/
def usesClear (pixelBits : Nat) : List Param := [Param.fill0, .fill1, .fill2, .fill3].take (fillWords pixelBits)

/-- USES(RASTER) (60_exceptions R276). -/
def usesRaster : List Param := [.posX, .posY, .scaleX, .scaleY, .z0, .z1, .z2, .triId, .shaderId]

/-- USES(WRITE) (60_exceptions R276). -/
def usesWrite : List Param := [.originX, .originY]

/-- USES(MAP) (60_exceptions R276). -/
def usesMap : List Param := [.mapId]

/-- VALID is 1 for every register of a list. -/
def Engine.allValid (g : Engine) (uses : List Param) : Bool := uses.all g.isValid

/-- The snapshot of an acceptance step: S_<name> gets the value of every register used, the others stay
unwritten (10_state R36, 60_exceptions R284). -/
def Engine.capture (g : Engine) (uses : List Param) : Vector (Option Word) 16 :=
  Vector.ofFn fun k => if uses.any (fun r => r.place = k) then some g.params[k] else none

/-- S_<name>, if the current command's acceptance wrote it. -/
def Snapshot.reg (s : Snapshot) (r : Param) : Option Word := s.regs[r.place]

/-- RASTER's operands (30_encoding R83). -/
structure RasterArgs where
  pos : Point
  scale : Point
  z0 : Binary32
  z1 : Binary32
  z2 : Binary32
  tri : Word
  shader : Word
deriving DecidableEq, Repr

/-- RASTER's operands from its snapshot. -/
def Snapshot.rasterArgs (s : Snapshot) : Option RasterArgs := do
  let px ← s.reg .posX
  let py ← s.reg .posY
  let sx ← s.reg .scaleX
  let sy ← s.reg .scaleY
  let z0 ← s.reg .z0
  let z1 ← s.reg .z1
  let z2 ← s.reg .z2
  let tri ← s.reg .triId
  let shader ← s.reg .shaderId
  some ⟨⟨px, py⟩, ⟨sx, sy⟩, z0, z1, z2, tri, shader⟩

/-- RASTER's operands as the parameter registers hold them. -/
def Engine.rasterArgs (g : Engine) : RasterArgs :=
  ⟨⟨g.param .posX, g.param .posY⟩, ⟨g.param .scaleX, g.param .scaleY⟩, g.param .z0, g.param .z1, g.param .z2,
    g.param .triId, g.param .shaderId⟩

/-- WRITE's origin and the number of its WRITE_ORDER draw, from its snapshot (44_commands R225). -/
def Snapshot.writeArgs (s : Snapshot) : Option (Word × Word × Nat) := do
  let x ← s.reg .originX
  let y ← s.reg .originY
  let n ← s.order
  some (x, y, n)

/-- MAP's selector and source, from its snapshot (44_commands R230). -/
def Snapshot.mapArgs (s : Snapshot) : Option (Word × Nat) := do
  let m ← s.reg .mapId
  let src ← s.src
  some (m, src.toNat)

/-- A pixel cut to its engine's PIXEL_BITS bits, as every port carries it (20_memory R66, 45_interfaces R250). -/
def narrow (pixelBits : Nat) (p : Pixel) : Pixel := (p.setWidth pixelBits).setWidth 128

/-- FILL words packed low word first and cut to the pixel's width (20_memory R66). -/
def packFill (pixelBits : Nat) (f0 f1 f2 f3 : Word) : Pixel := narrow pixelBits (f3 ++ f2 ++ f1 ++ f0)

/-- S_FILLw where CLEAR uses it; an unused word contributes nothing and is not read (20_memory R66). -/
def Snapshot.fillWord (s : Snapshot) (pixelBits w : Nat) (r : Param) : Option Word :=
  if w < fillWords pixelBits then s.reg r else some 0

/-- CLEAR's fill pixel from its snapshot (44_commands R210). -/
def Snapshot.fillPixel (s : Snapshot) (pixelBits : Nat) : Option Pixel := do
  let f0 ← s.fillWord pixelBits 0 .fill0
  let f1 ← s.fillWord pixelBits 1 .fill1
  let f2 ← s.fillWord pixelBits 2 .fill2
  let f3 ← s.fillWord pixelBits 3 .fill3
  some (packFill pixelBits f0 f1 f2 f3)

/-- The fill pixel that the parameter registers hold. -/
def Engine.fillPixel (g : Engine) (pixelBits : Nat) : Pixel :=
  packFill pixelBits (g.param .fill0) (g.param .fill1) (g.param .fill2) (g.param .fill3)

/-- The largest origin a WRITE accepts, 2^32 - 1 - 31 (40_lane_primitives R117). -/
def maxOrigin : Nat := 0xFFFFFFE0

/-- ORIGIN_X and ORIGIN_Y are small enough that no coordinate exceeds 2^32 - 1 (60_exceptions R276). -/
def Engine.originOk (g : Engine) : Bool :=
  decide ((g.param .originX).toNat ≤ maxOrigin) && decide ((g.param .originY).toNat ≤ maxOrigin)

end Sys2Proof.Machine
end

