-- ==== Sys2Proof/Machine/Flags.lean ====
section
/-! DEFINITION. The status flags, the fault codes and the constant registers (10_state R32–R34, 60_exceptions R271). -/
namespace Sys2Proof.Machine

/-- The fault codes that are ever recorded (60_exceptions R271). -/
inductive ErrCode where
  | illegal
  | busy
  | badGroup
  | unset
  | uninit
  | type
  | srcBusy
  | coord
deriving DecidableEq, Repr

/-- A fault code's number in STATUS.FAULT_CODE (60_exceptions R271). -/
def ErrCode.bits : ErrCode → BitVec 4
  | .illegal => 0x1
  | .busy => 0x2
  | .badGroup => 0x3
  | .unset => 0x4
  | .uninit => 0x5
  | .type => 0x6
  | .srcBusy => 0x7
  | .coord => 0x8

/-- STATUS as the host reads it: `{24'b0, FAULT_CODE, LOCKED, INIT, FAULT, BUSY}` (20_memory R63). -/
def Engine.status (g : Engine) : Word :=
  (0 : BitVec 24) ++ g.code ++ BitVec.ofBool g.locked ++ BitVec.ofBool g.init ++ BitVec.ofBool g.fault ++
    BitVec.ofBool g.busy

/-- ID, constant: ENGINE_ID, PIXEL_BITS, 0, LEVELS = 2, TILE_DIM = 8 (10_state R34). -/
def idWord (e pixelBits : Nat) : Word :=
  BitVec.ofNat 8 e ++ BitVec.ofNat 8 pixelBits ++ (0 : BitVec 4) ++ (2 : BitVec 4) ++ (8 : BitVec 8)

/-- BUSY or LOCKED: no command word can be accepted (10_state R39). -/
def Engine.occupied (g : Engine) : Bool := g.busy || g.locked

/-- `raise Fault(code)` on one engine: the two fault fields and nothing else (60_exceptions R275). -/
def Engine.raise (g : Engine) (c : ErrCode) : Engine := { g with fault := true, code := c.bits }

/-- The acknowledge: both fault fields cleared and nothing else (60_exceptions R280). -/
def Engine.acknowledge (g : Engine) : Engine := { g with fault := false, code := 0 }

/-- BUSY set at acceptance, with the snapshot taken; the transient registers and the port hold nothing of an
earlier command (10_state R36, R39, R41). -/
def Engine.start (g : Engine) (snap : Snapshot) : Engine :=
  { g with busy := true, snap := snap, tr := .unwritten, port := .quiet }

/-- The end of a command: BUSY cleared and SEQ at IDLE (10_state R39, R42). DESIGN CHOICE (assumption log 10): the transient
registers, unspecified between commands (10_state R41), keep the finished command's values. -/
def Engine.finish (g : Engine) : Engine := { g with busy := false, seq := .idle, port := .quiet }

/-- LOCKED set in the acceptance step of a MAP that reads this engine (10_state R39). -/
def Engine.lock (g : Engine) : Engine := { g with locked := true }

/-- LOCKED cleared in the step in which that MAP completes (10_state R39). -/
def Engine.unlock (g : Engine) : Engine := { g with locked := false }

end Sys2Proof.Machine
end

