-- ==== Sys2Proof/Machine/Ops.lean ====
section
/-! DEFINITION. The named operations over engines, lane buffers, ports and history, and the engine's one exception:
dropping a command word with a fault (60_exceptions R275), with its return beside it (R280). -/
namespace Sys2Proof.Machine

/-! ## Engines -/

/-- Engine e, if the state holds it. -/
def State.engine (s : State) (e : Nat) : Option Engine := s.engines[e]?

/-- Engine e replaced. -/
def State.setEngine (s : State) (e : Nat) (g : Engine) : State := { s with engines := s.engines.set e g }

/-- Engine e changed by f, if the state holds it. -/
def State.modifyEngine (s : State) (e : Nat) (f : Engine → Engine) : State :=
  { s with engines := s.engines.modify e f }

/-- One more entry of the history (45_interfaces R259). -/
def State.log (s : State) (o : Obs) : State := { s with history := o :: s.history }

/-- The request an engine has just issued goes into the history (45_interfaces R250, R259). -/
def State.logRequest (s : State) (e : Nat) (p : PortState) : State :=
  match p with
  | .waiting r => s.log (.request e r)
  | _ => s

/-- The result of an engine's own step: its new state, its new request logged, or the model fault. -/
def State.commit (s : State) (e : Nat) (r : Except Fault Engine) : Outcome :=
  match r with
  | .ok g => .next ((s.setEngine e g).logRequest e g.port)
  | .error f => .fault f

/-- A value that must have been written: otherwise the model fault f (60_exceptions R284). -/
def need {α : Type} (f : Fault) (x : Option α) : Except Fault α :=
  match x with
  | some a => .ok a
  | none => .error f

/-! ## Lane buffers -/

/-- Element (t, i) of a lane buffer; `none` while unwritten (10_state R27). -/
def readLane {α : Type} (b : Buffer α) (t : Tile) (i : Lane) : Option α := b[t][i]

/-- One element written, and no other (10_state R23). -/
def writeLane {α : Type} (b : Buffer α) (t : Tile) (i : Lane) (x : α) : Buffer α :=
  b.set t (b[t].set i (some x))

/-- All 64 elements of a tile, if every one is written. -/
def readTile (b : Buffer Binary32) (t : Tile) : Option Grid :=
  if b[t].all Option.isSome then some (b[t].map fun x => x.getD 0) else none

/-- All 64 elements of a tile written (41_tilemask R140). -/
def writeTile (b : Buffer Binary32) (t : Tile) (g : Grid) : Buffer Binary32 := b.set t (g.map some)

/-- Every element of every tile given one value (42_tile R165). -/
def fillBuffer {α : Type} (x : α) : Buffer α := Vector.replicate 16 (Vector.replicate 64 (some x))

/-! ## Ports (45_interfaces R250) -/

/-- The EVAL response that has come, if one has (45_interfaces R251). -/
def PortState.evalAnswer : PortState → Option (Grid × Grid)
  | .answered (.eval ..) (.eval u v) => some (u, v)
  | _ => none

/-- The INTERP response that has come (45_interfaces R254). -/
def PortState.interpAnswer : PortState → Option Attr
  | .answered (.interp ..) (.interp a) => some a
  | _ => none

/-- The FRAG response that has come (45_interfaces R255). -/
def PortState.fragAnswer : PortState → Option Pixel
  | .answered (.frag ..) (.frag p) => some p
  | _ => none

/-- The BLEND response that has come (45_interfaces R256). -/
def PortState.blendAnswer : PortState → Option Pixel
  | .answered (.blend ..) (.blend p) => some p
  | _ => none

/-- The sink's acceptance, if it has come (45_interfaces R258). -/
def PortState.pushTaken : PortState → Option Unit
  | .answered (.push ..) .ack => some ()
  | _ => none

/-- A response is of the type its request's port returns (45_interfaces R262). -/
def answers : Request → Response → Bool
  | .eval .., .eval .. => true
  | .interp .., .interp .. => true
  | .frag .., .frag .. => true
  | .blend .., .blend .. => true
  | .push .., .ack => true
  | _, _ => false

/-- A response as the port carries it: a pixel has PIXEL_BITS(e) bits (45_interfaces R250). -/
def Response.cut (pixelBits : Nat) : Response → Response
  | .frag p => .frag (narrow pixelBits p)
  | .blend p => .blend (narrow pixelBits p)
  | a => a

/-- An agent answers engine e's outstanding request (45_interfaces R250). An answer to no outstanding request of
its port (such as one abandoned by reset, 70_reset R300) reaches no engine and changes nothing. -/
def State.answer (s : State) (e : Nat) (a : Response) : State :=
  match s.engine e with
  | none => s
  | some g =>
    match g.port with
    | .waiting r =>
      if answers r a then
        let a' := a.cut (s.cfg.pixelBits e)
        (s.setEngine e { g with port := .answered r a' }).log (.response e a')
      else s
    | _ => s

/-! ## Dropping a command word, and the return from it (60_exceptions) -/

/-- TAKING THE EXCEPTION, `raise Fault(code)` (R275): the word is dropped, FAULT and FAULT_CODE of the presented
engine are written, and no other state changes. There is no handler and no vector (R281). -/
def State.raise (s : State) (e : Nat) (g : Engine) (c : ErrCode) : State := s.setEngine e (g.raise c)

/-- RETURNING FROM IT, the acknowledge of a CTRL write with bit 0 set (R280, 20_memory R62). -/
def State.acknowledge (s : State) (e : Nat) : State := s.modifyEngine e Engine.acknowledge

/-- The first check that holds decides the code (60_exceptions R276: the order is the priority). -/
def firstFailing : List (Bool × ErrCode) → Option ErrCode
  | [] => none
  | (holds, c) :: rest => if holds then some c else firstFailing rest

/-- `present(e, word)` around a command's own checks (60_exceptions R276): with FAULT = 1 the word is dropped
silently (R277); else BUSY or LOCKED drops it with E_BUSY; else the first of `checks` that holds drops it; else
the command is accepted. -/
def presentTo (s : State) (checks : Engine → List (Bool × ErrCode)) (accept : Engine → Outcome) : Outcome :=
  match s.engine s.target with
  | none => .fault .noSuchEngine
  | some g =>
    if g.fault then .next s
    else match firstFailing ((g.occupied, .busy) :: checks g) with
      | some c => .next (s.raise s.target g c)
      | none => accept g

/-- Presenting an ILLEGAL word: dropped with E_ILLEGAL unless an earlier check drops it first (30_encoding R84,
R86, 60_exceptions R276). -/
def presentIllegal (s : State) : Outcome :=
  presentTo s (fun _ => [(true, .illegal)]) fun _ => .next s

/-! ## Reset (70_reset R300) -/

/-- One engine in reset. The model's own draw counters go on, so that a draw after reset is a fresh one. -/
def Engine.resetAgain (g : Engine) : Engine :=
  { Engine.reset with fpDraws := g.fpDraws, writeDraws := g.writeDraws }

/-- The reset input changes its level: when it is asserted, and again in the step that releases it, every engine takes
the state of 10_state R46 (70_reset R300); the configuration and the outside world's coming events stay. DESIGN CHOICE
(assumption log 16): a release while the input is not asserted, of which the spec does not speak, resets every engine
too. -/
def State.resetAll (s : State) (asserted : Bool) : State :=
  State.log { s with engines := s.engines.map Engine.resetAgain, inReset := asserted } (.reset asserted)

end Sys2Proof.Machine
end

