-- ==== Sys2Proof/Machine/TileMask.lean ====
section
/-! DEFINITION. The TileMask micro-operations COVER, DEPTHTEST and ITER (41_tilemask). -/
namespace Sys2Proof.Machine

/-- W = (1 - u) - v, each difference rounded (41_tilemask R131). Lane i's two differences are the operation
instances 2i and 2i+1 from n. -/
def coverW (n : DrawId) (u v : Grid) : Grid :=
  lanesub (fun i => n.plus (2 * i.val + 1)) (lanesub (fun i => n.plus (2 * i.val)) (broadcast f32One) u) v

/-- How many binary32 operations COVER runs. -/
def coverOps : Nat := 128

/-- COVER's mask: the lanes none of whose three weights has its sign bit set (41_tilemask R132). -/
def coverMask (w u v : Grid) : Mask := ~~~(signmask w ||| signmask u ||| signmask v)

/-- The products and sums of the interpolated depth `(w*z0 + u*z1) + v*z2`, each rounded (41_tilemask R137).
Lane i's seven operations of DEPTHTEST are the instances 7i .. 7i+6 from n. -/
def depthZ (n : DrawId) (w u v : Grid) (z0 z1 z2 : Binary32) : Grid :=
  laneadd (fun i => n.plus (7 * i.val + 4))
    (laneadd (fun i => n.plus (7 * i.val + 3))
      (lanemul (fun i => n.plus (7 * i.val)) w z0)
      (lanemul (fun i => n.plus (7 * i.val + 1)) u z1))
    (lanemul (fun i => n.plus (7 * i.val + 2)) v z2)

/-- How many binary32 operations DEPTHTEST runs. -/
def depthOps : Nat := 448

/-- F = old depth - new depth (41_tilemask R137). -/
def depthF (n : DrawId) (old z : Grid) : Grid := lanesub (fun i => n.plus (7 * i.val + 5)) old z

/-- N = new depth + 1 (41_tilemask R137). -/
def depthN (n : DrawId) (z : Grid) : Grid := laneadd (fun i => n.plus (7 * i.val + 6)) z (broadcast f32One)

/-- The surviving lanes: in MASK before, not behind the stored depth, not before the near plane (41_tilemask R138). -/
def depthMask (n : DrawId) (mask : Mask) (old z : Grid) : Mask :=
  mask &&& ~~~(signmask (depthF n old z)) &&& ~~~(signmask (depthN n z))

/-- One step of ITER (41_tilemask R145): the lowest set bit of CUR and CUR without it, or the end. -/
def iterStep (cur : Mask) : Option (Lane × Mask) :=
  if cur = 0 then none else some (ctz cur, clearbit cur (ctz cur))

/-- The lanes ITER yields from CUR, in order; 65 steps exhaust any 64-bit mask. -/
def iterYields : Nat → Mask → List Lane
  | 0, _ => []
  | fuel + 1, cur =>
    match iterStep cur with
    | none => []
    | some (i, rest) => i :: iterYields fuel rest

end Sys2Proof.Machine
end

