-- ==== Sys2Proof/Machine/Clear.lean ====
section
/-! DEFINITION. CLEAR: its acceptance and its one engine step (44_commands R210, 42_tile R165). -/
namespace Sys2Proof.Machine

/-- The checks that can drop a CLEAR word after FAULT and E_BUSY (44_commands R210, 60_exceptions R276). -/
def checksClear (pixelBits : Nat) (g : Engine) : List (Bool × ErrCode) :=
  [(!g.allValid (usesClear pixelBits), .unset)]

/-- CLEAR's acceptance: S_FILLw <- FILLw, BUSY <- 1, SEQ <- CLR (44_commands R210). -/
def startClear (pixelBits : Nat) (g : Engine) : Engine :=
  { g.start { regs := g.capture (usesClear pixelBits), src := none, order := none } with seq := .clr }

/-- CLEAR presented to the target engine (44_commands R210). -/
def execClear (s : State) : Outcome :=
  presentTo s (checksClear (s.cfg.pixelBits s.target)) fun g =>
    .next (s.setEngine s.target (startClear (s.cfg.pixelBits s.target) g))

/-- TILE_CLEAR over all 16 tiles, the step at SEQ = CLR (42_tile R165). -/
def clearStep (pixelBits : Nat) (g : Engine) : Except Fault Engine := do
  let fill ← need .unwrittenSnapshot (g.snap.fillPixel pixelBits)
  .ok { g with depth := fillBuffer f32One, color := fillBuffer fill, init := true }.finish

end Sys2Proof.Machine
end

