-- ==== Sys2Proof/Machine/Map.lean ====
section
/-! DEFINITION. MAP: its acceptance and its 1024 element steps (44_commands R230–R232, 42_tile R171, R172). -/
namespace Sys2Proof.Machine

/-- A condition on the source engine, false where there is none (60_exceptions R276). -/
def sourceIs (s : State) (src : Nat) (f : Engine → Bool) : Bool :=
  match s.engine src with
  | some g => f g
  | none => false

/-- The checks that can drop a MAP word after FAULT and E_BUSY, in the order of 60_exceptions R276
(44_commands R230): the source id, VALID(MAP_ID), INIT here, INIT there, the widths, the source's occupation. -/
def checksMap (s : State) (src : Nat) (g : Engine) : List (Bool × ErrCode) :=
  [(decide (s.cfg.numEngines ≤ src) || decide (src = s.target), .badGroup),
   (!g.allValid usesMap, .unset),
   (!g.init, .uninit),
   (sourceIs s src fun a => !a.init, .uninit),
   (decide (s.cfg.signature (g.param .mapId) ≠ some (s.cfg.pixelBits src, s.cfg.pixelBits s.target)), .type),
   (sourceIs s src Engine.occupied, .srcBusy)]

/-- MAP's acceptance on the destination: S_MAP_ID <- MAP_ID, S_SRC <- SRC, BUSY <- 1, SEQ <- M_MAP(0, 0)
(44_commands R230). -/
def startMap (src : Nat) (g : Engine) : Engine :=
  { g.start { regs := g.capture usesMap, src := some (BitVec.ofNat 8 src), order := none } with seq := .mMap 0 0 }

/-- MAP presented to the target engine; its acceptance also locks the source (44_commands R230). -/
def execMap (src : Nat) (s : State) : Outcome :=
  presentTo s (checksMap s src) fun g =>
    match s.engine src with
    | none => .fault .noSuchEngine
    | some _ => .next ((s.setEngine s.target (startMap src g)).modifyEngine src Engine.lock)

/-- The mapped value of a source pixel: PIXEL_BITS(d) bits out (42_tile R171, 45_interfaces R257). -/
def mapPixel (pixelBits : Nat) (m : Word) (p : Pixel) : Pixel := narrow pixelBits (Config.mapFn m p)

/-- At M_MAP(t, i) on engine d: COLOR_d[t][i] <- map_fn(S_MAP_ID, COLOR_s[t][i]); the 1024th write ends the
command and unlocks the source (42_tile R171). -/
def mapStep (s : State) (d : Nat) (g : Engine) (t : Tile) (i : Lane) : Outcome :=
  match g.snap.mapArgs with
  | none => .fault .unwrittenSnapshot
  | some (m, src) =>
    match s.engine src with
    | none => .fault .noSuchEngine
    | some a =>
      match readLane a.color t i with
      | none => .fault .unwrittenElement
      | some p =>
        let g' : Engine := { g with color := writeLane g.color t i (mapPixel (s.cfg.pixelBits d) m p) }
        match laneAfter t i with
        | some (t', i') => .next (s.setEngine d { g' with seq := .mMap t' i' })
        | none => .next ((s.setEngine d g'.finish).modifyEngine src Engine.unlock)

end Sys2Proof.Machine
end

