-- ==== Sys2Proof/Machine/Raster.lean ====
section
/-! DEFINITION. RASTER: its acceptance and its engine steps, one per phase (44_commands R215–R219, 42_tile
R160–R164). -/
namespace Sys2Proof.Machine

/-! ## Entering a tile -/

/-- PT <- PT(t) for the tile about to be evaluated (43_quad_group R192). -/
def placeTile (e : Nat) (t : Tile) (g : Engine) : Except Fault Engine := do
  let a ← need .unwrittenSnapshot g.snap.rasterArgs
  .ok { g with
    tr := { g.tr with pt := some (tilePosition ⟨e, g.fpDraws⟩ a.pos a.scale t) }
    fpDraws := g.fpDraws + placementOps }

/-- SEQ <- R_EVAL(t), with its EVAL request issued (42_tile R160, 45_interfaces R251). -/
def issueEval (t : Tile) (g : Engine) : Except Fault Engine := do
  let a ← need .unwrittenSnapshot g.snap.rasterArgs
  let pt ← need .unwrittenTransient g.tr.pt
  .ok { g with seq := .rEval t, port := .waiting (.eval a.tri pt a.scale) }

/-- Entering tile t: placement, then the evaluator request. -/
def enterTile (e : Nat) (t : Tile) (g : Engine) : Except Fault Engine := do
  let g ← placeTile e t g
  issueEval t g

/-- The tile after t, or the end of the command after tile 15 (44_commands R216, R217). -/
def nextTile (e : Nat) (t : Tile) (g : Engine) : Except Fault Engine :=
  match tileAfter t with
  | some t' => enterTile e t' g
  | none => .ok g.finish

/-! ## Acceptance -/

/-- The checks that can drop a RASTER word after FAULT and E_BUSY (44_commands R215, 60_exceptions R276). -/
def checksRaster (g : Engine) : List (Bool × ErrCode) :=
  [(!g.allValid usesRaster, .unset), (!g.init, .uninit)]

/-- RASTER's acceptance: the nine operand registers snapshotted, BUSY <- 1, SEQ <- R_EVAL(0) with tile 0's EVAL
request (44_commands R215). -/
def startRaster (e : Nat) (g : Engine) : Except Fault Engine :=
  enterTile e 0 (g.start { regs := g.capture usesRaster, src := none, order := none })

/-- RASTER presented to the target engine (44_commands R215). -/
def execRaster (s : State) : Outcome :=
  presentTo s checksRaster fun g => s.commit s.target (startRaster s.target g)

/-! ## The dispatch of surviving lanes (42_tile R161, R162) -/

/-- SEQ <- R_INTERP(t, LANE), with the INTERP request for the lane ITER yielded and its weights (w, u, v)
(42_tile R161, 41_tilemask R146). -/
def issueInterp (t : Tile) (g : Engine) : Except Fault Engine := do
  let a ← need .unwrittenSnapshot g.snap.rasterArgs
  let i ← need .unwrittenTransient g.tr.lane
  let w ← need .unwrittenTransient g.tr.w
  let u ← need .unwrittenTransient g.tr.u
  let v ← need .unwrittenTransient g.tr.v
  .ok { g with seq := .rInterp t i, port := .waiting (.interp a.tri w[i] u[i] v[i]) }

/-- ITER advances (41_tilemask R145): the lowest lane of CUR is dispatched, or the tile ends. -/
def advanceIter (e : Nat) (t : Tile) (g : Engine) : Except Fault Engine := do
  let cur ← need .unwrittenTransient g.tr.cur
  match iterStep cur with
  | none => nextTile e t g
  | some (i, rest) => issueInterp t { g with tr := { g.tr with lane := some i, cur := some rest } }

/-! ## The engine steps, one per phase (44_commands R216) -/

/-- At R_EVAL(t): the response is latched into U and V; SEQ <- R_COVER(t). -/
def takeEval (t : Tile) (u v : Grid) (g : Engine) : Engine :=
  { g with tr := { g.tr with u := some u, v := some v }, seq := .rCover t, port := .quiet }

/-- At R_COVER(t): COVER (41_tilemask R130); a zero mask ends the tile (42_tile R160), else SEQ <- R_DEPTH(t). -/
def coverStep (e : Nat) (t : Tile) (g : Engine) : Except Fault Engine := do
  let u ← need .unwrittenTransient g.tr.u
  let v ← need .unwrittenTransient g.tr.v
  let w := coverW ⟨e, g.fpDraws⟩ u v
  let m := coverMask w u v
  let g' : Engine :=
    { g with tr := { g.tr with w := some w, mask := some m }, fpDraws := g.fpDraws + coverOps }
  if m = 0 then nextTile e t g' else .ok { g' with seq := .rDepth t }

/-- DEPTHTEST with its masked depth write, all in one step (41_tilemask R137–R140). -/
def depthTest (e : Nat) (t : Tile) (g : Engine) : Except Fault Engine := do
  let a ← need .unwrittenSnapshot g.snap.rasterArgs
  let w ← need .unwrittenTransient g.tr.w
  let u ← need .unwrittenTransient g.tr.u
  let v ← need .unwrittenTransient g.tr.v
  let mask ← need .unwrittenTransient g.tr.mask
  let old ← need .unwrittenElement (readTile g.depth t)
  let n : DrawId := ⟨e, g.fpDraws⟩
  let z := depthZ n w u v a.z0 a.z1 a.z2
  let m := depthMask n mask old z
  .ok { g with
    tr := { g.tr with z := some z, mask := some m }
    depth := writeTile g.depth t (select m z old)
    fpDraws := g.fpDraws + depthOps }

/-- ITER starts from MASK: CUR <- MASK (41_tilemask R145). -/
def startIter (g : Engine) : Except Fault Engine := do
  let m ← need .unwrittenTransient g.tr.mask
  .ok { g with tr := { g.tr with cur := some m } }

/-- At R_DEPTH(t): DEPTHTEST, then ITER's first lane or the end of the tile. -/
def depthStep (e : Nat) (t : Tile) (g : Engine) : Except Fault Engine := do
  let g ← depthTest e t g
  let g ← startIter g
  advanceIter e t g

/-- At R_INTERP(t, i): ATTR is latched; SEQ <- R_FRAG(t, i) with its FRAG request (42_tile R161). -/
def takeInterp (t : Tile) (i : Lane) (attr : Attr) (g : Engine) : Except Fault Engine := do
  let a ← need .unwrittenSnapshot g.snap.rasterArgs
  .ok { g with
    tr := { g.tr with attr := some attr }
    seq := .rFrag t i
    port := .waiting (.frag a.shader attr) }

/-- At R_FRAG(t, i): NEWPIX is latched; SEQ <- R_BLEND(t, i) with its BLEND request, the old value first
(42_tile R162). -/
def takeFrag (t : Tile) (i : Lane) (p : Pixel) (g : Engine) : Except Fault Engine := do
  let a ← need .unwrittenSnapshot g.snap.rasterArgs
  let old ← need .unwrittenElement (readLane g.color t i)
  .ok { g with
    tr := { g.tr with newpix := some p }
    seq := .rBlend t i
    port := .waiting (.blend a.shader old p) }

/-- At R_BLEND(t, i): COLOR[t][i] takes the response, then ITER advances (42_tile R162). -/
def takeBlend (e : Nat) (t : Tile) (i : Lane) (p : Pixel) (g : Engine) : Except Fault Engine :=
  advanceIter e t { g with color := writeLane g.color t i p, port := .quiet }

end Sys2Proof.Machine
end

