-- ==== Sys2Proof/Machine/Write.lean ====
section
/-! DEFINITION. WRITE: its acceptance and its 1024 pushes (44_commands R225, 42_tile R168–R170). -/
namespace Sys2Proof.Machine

/-- SEQ <- W_PUSH(k), PUSHK <- k, with push k issued: the lane WRITE_ORDER(k), at its coordinates, with its stored
color (42_tile R168, R169). -/
def issuePush (e : Nat) (k : Fin 1024) (g : Engine) : Except Fault Engine := do
  let (ox, oy, n) ← need .unwrittenSnapshot g.snap.writeArgs
  let (t, i) := writeOrder ⟨e, n⟩ k
  let p ← need .unwrittenElement (readLane g.color t i)
  .ok { g with
    tr := { g.tr with pushk := some k }
    seq := .wPush k
    port := .waiting (.push (pushX ox t i) (pushY oy t i) p) }

/-- The checks that can drop a WRITE word after FAULT and E_BUSY (44_commands R225, 60_exceptions R276). -/
def checksWrite (g : Engine) : List (Bool × ErrCode) :=
  [(!g.allValid usesWrite, .unset), (!g.init, .uninit), (!g.originOk, .coord)]

/-- WRITE's acceptance: the origin snapshotted, WRITE_ORDER drawn, BUSY <- 1, SEQ <- W_PUSH(0) with push 0
(44_commands R225). -/
def startWrite (e : Nat) (g : Engine) : Except Fault Engine :=
  issuePush e 0
    { g.start { regs := g.capture usesWrite, src := none, order := some g.writeDraws } with
      writeDraws := g.writeDraws + 1 }

/-- WRITE presented to the target engine (44_commands R225). -/
def execWrite (s : State) : Outcome :=
  presentTo s checksWrite fun g => s.commit s.target (startWrite s.target g)

/-- At W_PUSH(k), the sink having taken push k: push k+1, or the end after push 1023 (44_commands R225). -/
def takeAck (e : Nat) (g : Engine) : Except Fault Engine := do
  let k ← need .unwrittenTransient g.tr.pushk
  if h : k.val + 1 < 1024 then issuePush e ⟨k.val + 1, h⟩ g else .ok g.finish

end Sys2Proof.Machine
end

