-- ==== Sys2Proof/Machine/Dispatch.lean ====
section
/-! DEFINITION. One arm per command: the presentation of its word to the target engine (60_exceptions R276). -/
namespace Sys2Proof.Machine

def exec (i : Instr) (s : State) : Host.Outcome State Fault Refusal :=
  match i with
  | .clear => Sys2Proof.Machine.execClear s
  | .raster => Sys2Proof.Machine.execRaster s
  | .write => Sys2Proof.Machine.execWrite s
  | .map src => Sys2Proof.Machine.execMap src s

end Sys2Proof.Machine
end

