-- ==== Sys2Proof/Machine/EngineSteps.lean ====
section
/-! DEFINITION. The sequencer: what engine e does in its next step (10_state R40, R42, 44_commands R216). -/
namespace Sys2Proof.Machine

/-- An engine's step at every phase but M_MAP, which reads another engine. `none`: the engine has no step,
because it is idle or its port's agent has not answered (45_interfaces R250). -/
def localStep (pixelBits e : Nat) (g : Engine) : Option (Except Fault Engine) :=
  match g.seq with
  | .idle => none
  | .clr => some (clearStep pixelBits g)
  | .rEval t => g.port.evalAnswer.map fun a => .ok (takeEval t a.1 a.2 g)
  | .rCover t => some (coverStep e t g)
  | .rDepth t => some (depthStep e t g)
  | .rInterp t i => g.port.interpAnswer.map fun a => takeInterp t i a g
  | .rFrag t i => g.port.fragAnswer.map fun p => takeFrag t i p g
  | .rBlend t i => g.port.blendAnswer.map fun p => takeBlend e t i p g
  | .wPush _ => g.port.pushTaken.map fun _ => takeAck e g
  | .mMap _ _ => none

/-- Engine e's next step, if it has one. -/
def engineStep (s : State) (e : Nat) : Option Outcome :=
  match s.engine e with
  | none => none
  | some g =>
    match g.seq with
    | .mMap t i => some (mapStep s e g t i)
    | _ => (localStep (s.cfg.pixelBits e) e g).map (s.commit e)

end Sys2Proof.Machine
end

