-- ==== Sys2Proof/Machine/HostAccess.lean ====
section
/-! DEFINITION. The host's accesses to the register windows, and what each coming event does (20_memory R60–R66,
R72, 60_exceptions R290, R291). -/
namespace Sys2Proof.Machine

/-- The engine whose window holds an address, and the offset in it (20_memory R60, R70). -/
def locateFrom : Nat → List EngineConfig → Nat → Option (Nat × Nat)
  | _, [], _ => none
  | e, k :: rest, addr =>
    if k.base ≤ addr ∧ addr < k.base + 0x100 then some (e, addr - k.base) else locateFrom (e + 1) rest addr

def locate (c : Platform) (addr : Nat) : Option (Nat × Nat) := locateFrom 0 c.engines addr

/-- Only 32-bit aligned accesses are admitted (20_memory R64). -/
def wordAccess (off width : Nat) : Bool := width == 4 && off % 4 == 0

/-- What a 32-bit read of offset `off` returns (20_memory R63); it has no side effect. -/
def readReg (c : Platform) (e : Nat) (g : Engine) (off : Nat) : Word :=
  match paramAt off with
  | some r => g.param r
  | none => if off = 0x04 then g.status else if off = 0x0C then idWord e (c.pixelBits e) else 0

/-- A 32-bit write of any offset but CMD's (20_memory R62): CTRL acknowledges, a parameter register is stored,
every other offset ignores it. -/
def writeReg (s : State) (e off : Nat) (v : Word) : State :=
  match paramAt off with
  | some r => s.modifyEngine e fun g => g.setParam r v
  | none => if off = 0x08 ∧ v.getLsbD 0 then s.acknowledge e else s

/-- A command word presented to engine e (10_state R31, 60_exceptions R276). -/
def presentWord (s : State) (e : Nat) (w : Word) : Outcome :=
  match decode w with
  | .ok i => exec i { s with target := e }
  | .error _ => presentIllegal { s with target := e }

/-- A host access: to a register of an engine's window, or one that has no step (20_memory R60, R64). -/
def hostAccess (s : State) (addr width : Nat) (act : Nat → Nat → Outcome) : Outcome :=
  match locate s.cfg addr with
  | none => .fault .unmappedAddress
  | some (e, off) => if wordAccess off width then act e off else .refused (.badAccess s.cfg.busErrorOnBadAccess)

/-- `MemWrite(addr, width, v)` (20_memory R62, R64). While reset is asserted the engines stay in the state of 10_state
R46, so the write changes none of them (70_reset R300). -/
def hostWrite (s : State) (addr width : Nat) (v : Word) : Outcome :=
  hostAccess s addr width fun e off =>
    let s' := s.log (.hostWrote e off v)
    if s.inReset then .next s' else if off = 0 then presentWord s' e v else .next (writeReg s' e off v)

/-- A read whose value v goes to the host, and so into the history, and which then leaves the state `after v`. -/
def hostReadThen (s : State) (addr width : Nat) (after : Word → State → State) : Outcome :=
  hostAccess s addr width fun e off =>
    match s.engine e with
    | none => .fault .noSuchEngine
    | some g => .next (after (readReg s.cfg e g off) (s.log (.hostRead e off (readReg s.cfg e g off))))

/-- `MemRead(addr, width)` (20_memory R63, R64). -/
def hostRead (s : State) (addr width : Nat) : Outcome := hostReadThen s addr width fun _ s' => s'

/-! ## WAIT (30_encoding R91) -/

/-- An access of the host. -/
def Event.isHost : Event → Bool
  | .hostWrite .. => true
  | .hostRead .. => true
  | .hostWait .. => true
  | _ => false

/-- The lowest engine that has a step. -/
def firstReady (s : State) : Option Nat := (List.range s.engines.length).find? fun e => (engineStep s e).isSome

/-- `WAIT` goes on while bit 0, BUSY, of the STATUS value read is 1 (30_encoding R91). -/
def waitAgain (status : Word) : Bool := status.getLsbD 0

/-- The coming events when a WAIT must poll again: the host's other accesses stay behind it, and before its next poll
another agent moves: the next one listed, or else the lowest engine that has a step (assumption log 18). -/
def waitBehind (s : State) (wait : Event) (rest : List Event) : List Event :=
  match rest.find? fun ev => !ev.isHost with
  | some ev => ev :: wait :: rest.eraseP fun ev => !ev.isHost
  | none =>
    match firstReady s with
    | some e => .engine e :: wait :: rest
    | none => wait :: rest

/-- One poll of a WAIT whose event has just been taken from the coming ones: a read, after which the WAIT is over or
stays the host's next access (30_encoding R91). -/
def hostWait (s : State) (addr : Nat) : Outcome :=
  hostReadThen s addr 4 fun v s' =>
    if waitAgain v then { s' with inputs := waitBehind s (.hostWait addr) s.inputs } else s'

/-- One byte of the address space as the host would see it (20_memory R60, R65); `none` outside every window. -/
def windowByte (s : State) (addr : Nat) : Option Byte :=
  match locate s.cfg addr with
  | none => none
  | some (e, off) => (s.engine e).map fun g => byteOfWord (readReg s.cfg e g (off - off % 4)) (off % 4)

/-- Engine e takes its next step. One with no step to take stays as it is, and so does every engine while reset is
asserted (70_reset R300). -/
def runEngine (s : State) (e : Nat) : Outcome := if s.inReset then .next s else (engineStep s e).getD (.next s)

/-- What one event does. -/
def applyEvent (s : State) : Event → Outcome
  | .hostWrite addr width v => hostWrite s addr width v
  | .hostRead addr width => hostRead s addr width
  | .hostWait addr => hostWait s addr
  | .engine e => runEngine s e
  | .answer e a => .next (if s.inReset then s else s.answer e a)
  | .reset asserted => .next (s.resetAll asserted)

/-- With no event listed, the lowest engine that has a step takes it: engines are weakly fair (70_reset R321;
assumption log 2). With none, the system waits (70_reset R300, 60_exceptions R283). -/
def drain (s : State) : Outcome :=
  match firstReady s with
  | some e => runEngine s e
  | none => .next s

/-- One step of the system: the next event, or the engines' own progress. -/
def nextStep (s : State) : Outcome :=
  match s.inputs with
  | [] => drain s
  | ev :: rest => applyEvent { s with inputs := rest } ev

/-- The host's write of a word to engine e's CMD register, as the next event. -/
def commandEvent (c : Platform) (e : Nat) (w : Word) : Event := .hostWrite (c.base e) 4 w

end Sys2Proof.Machine
end

