-- ==== Sys2Proof/Machine/Step.lean ====
section
/-! DEFINITION. One step of the machine, and how a command word is put where the next step takes it. -/
namespace Sys2Proof.Machine

/-- One step: the next event of `inputs`, or, with none, an engine's own step. -/
def step (s : State) : Host.Outcome State Fault Refusal := nextStep s

/-- The command word w as the host's next write, to engine 0's CMD register. The engine fetches nothing
(20_memory R78): a word has its effect when the host writes it (10_state R31; assumption log 7), and only while the
reset input is released (70_reset R300). -/
def State.withFetchWord (s : State) (nbits w : Nat) : State :=
  { s with
    inReset := false
    inputs := commandEvent s.cfg 0 (BitVec.ofNat 32 (w % 2 ^ nbits)) :: s.inputs }

end Sys2Proof.Machine
end

