-- ==== Sys2Proof/Machine/Assembler.lean ====
section
/-! DEFINITION. The host's command text: register lines, commands and pseudo-instructions, read and as host accesses
(30_encoding R89–R92, 60_exceptions R290). -/
namespace Sys2Proof.Machine

/-- The window's register names (10_state R30). -/
inductive RegName where
  | cmd
  | status
  | ctrl
  | id
  | param (r : Param)
deriving DecidableEq, Repr

/-- A register's offset (10_state R30). -/
def RegName.offset : RegName → Nat
  | .cmd => 0x00
  | .status => 0x04
  | .ctrl => 0x08
  | .id => 0x0C
  | .param r => 0x10 + 4 * r.place.val

/-- A value of a `WR` line (R90): a bit pattern, a decimal u32, or a decimal float `digits / 10^places`. -/
inductive AsmValue where
  | bits (w : Word)
  | unsigned (n : Nat)
  | decimal (neg : Bool) (digits places : Nat)
deriving DecidableEq, Repr

/-- The binary32 nearest to `± digits / 10^places`, ties to even (R90). Four guard bits below the least
binary32 are kept, the last of them set when the quotient is not exact. -/
def f32OfDecimal (neg : Bool) (digits places : Nat) : Binary32 :=
  let den := 10 ^ places
  let num := digits <<< 152
  f32Pack neg (roundMag (2 * (num / den) + if num % den = 0 then 0 else 1) 4)

/-- The 32-bit pattern of a value (R90). -/
def AsmValue.word : AsmValue → Word
  | .bits w => w
  | .unsigned n => BitVec.ofNat 32 n
  | .decimal neg digits places => f32OfDecimal neg digits places

/-- A line of command text, directed to one engine (R89–R91). -/
inductive AsmLine where
  | wr (r : RegName) (v : AsmValue)
  | rd (r : RegName)
  | command (i : Instr)
  | new (fill : Pixel)
  | fillv (fill : Pixel)
  | tri (px py sx sy z0 z1 z2 tri shader : AsmValue)
  | origin (x y : AsmValue)
  | mapwith (m : AsmValue) (src : Nat)
  | wait
  | ack
deriving DecidableEq, Repr

/-- `WR reg, value` to engine e (R90). -/
def wrEvent (c : Platform) (e : Nat) (r : RegName) (v : Word) : Event := .hostWrite (c.base e + r.offset) 4 v

/-- `RD reg` of engine e (R90). -/
def rdEvent (c : Platform) (e : Nat) (r : RegName) : Event := .hostRead (c.base e + r.offset) 4

/-- `WAIT` on engine e: reads of its STATUS until BUSY is 0 (R91). -/
def waitEvent (c : Platform) (e : Nat) : Event := .hostWait (c.base e + RegName.status.offset)

/-- `FILLV p`: FILL0, and FILLw for w in 1..NFW(e)-1 (R91). -/
def fillEvents (c : Platform) (e : Nat) (p : Pixel) : List Event :=
  wrEvent c e (.param .fill0) (p.extractLsb' 0 32) ::
    ([(1, Param.fill1), (2, .fill2), (3, .fill3)].filter fun x => x.1 < fillWords (c.pixelBits e)).map
      fun x => wrEvent c e (.param x.2) (p.extractLsb' (32 * x.1) 32)

/-- The host accesses of one line (R89–R92). -/
def assemble (c : Platform) (e : Nat) : AsmLine → List Event
  | .wr r v => [wrEvent c e r v.word]
  | .rd r => [rdEvent c e r]
  | .command i => [wrEvent c e .cmd (encode i)]
  | .new fill => fillEvents c e fill ++ [wrEvent c e .cmd (encode .clear)]
  | .fillv fill => fillEvents c e fill
  | .tri px py sx sy z0 z1 z2 handle shader =>
    [wrEvent c e (.param .posX) px.word, wrEvent c e (.param .posY) py.word,
     wrEvent c e (.param .scaleX) sx.word, wrEvent c e (.param .scaleY) sy.word,
     wrEvent c e (.param .z0) z0.word, wrEvent c e (.param .z1) z1.word, wrEvent c e (.param .z2) z2.word,
     wrEvent c e (.param .triId) handle.word, wrEvent c e (.param .shaderId) shader.word]
  | .origin x y => [wrEvent c e (.param .originX) x.word, wrEvent c e (.param .originY) y.word]
  | .mapwith m src => [wrEvent c e (.param .mapId) m.word, wrEvent c e .cmd (encode (.map src))]
  | .wait => [waitEvent c e]
  | .ack => [wrEvent c e .ctrl 1]

/-- The host accesses of a text, each line with its engine (R89). -/
def assembleAll (c : Platform) (lines : List (Nat × AsmLine)) : List Event :=
  lines.flatMap fun l => assemble c l.1 l.2

/-! ## The text of a line (R89–R91) -/

/-- A register's name (10_state R30). -/
def RegName.text : RegName → String
  | .cmd => "CMD" | .status => "STATUS" | .ctrl => "CTRL" | .id => "ID"
  | .param .posX => "POS_X" | .param .posY => "POS_Y" | .param .scaleX => "SCALE_X" | .param .scaleY => "SCALE_Y"
  | .param .z0 => "Z0" | .param .z1 => "Z1" | .param .z2 => "Z2"
  | .param .triId => "TRI_ID" | .param .shaderId => "SHADER_ID" | .param .mapId => "MAP_ID"
  | .param .originX => "ORIGIN_X" | .param .originY => "ORIGIN_Y"
  | .param .fill0 => "FILL0" | .param .fill1 => "FILL1" | .param .fill2 => "FILL2" | .param .fill3 => "FILL3"

/-- `0x` hexadecimal of a number, at least `width` digits. -/
def hexText (width n : Nat) : String :=
  let ds := Nat.toDigits 16 n
  "0x" ++ String.ofList (List.replicate (width - ds.length) '0' ++ ds)

/-- A decimal number. -/
def decText (n : Nat) : String := String.ofList (Nat.toDigits 10 n)

/-- A value as it is written in a line (R90). -/
def AsmValue.text : AsmValue → String
  | .bits w => hexText 8 w.toNat
  | .unsigned n => decText n
  | .decimal neg digits places =>
    let frac := Nat.toDigits 10 (digits % 10 ^ places)
    (if neg then "-" else "") ++ decText (digits / 10 ^ places) ++ "." ++
      String.ofList (List.replicate (places - frac.length) '0' ++ frac) ++ "f"

/-- A command's text (R89). -/
def commandText : Instr → String
  | .clear => "CLEAR"
  | .raster => "RASTER"
  | .write => "WRITE"
  | .map src => "MAP " ++ decText src

/-- A line's text (R89–R91). -/
def AsmLine.text : AsmLine → String
  | .wr r v => "WR " ++ r.text ++ ", " ++ v.text
  | .rd r => "RD " ++ r.text
  | .command i => commandText i
  | .new fill => "NEW " ++ hexText 8 fill.toNat
  | .fillv fill => "FILLV " ++ hexText 8 fill.toNat
  | .tri px py sx sy z0 z1 z2 handle shader =>
    "TRI " ++ String.intercalate ", "
      ([px, py, sx, sy, z0, z1, z2, handle, shader].map AsmValue.text)
  | .origin x y => "ORIGIN " ++ x.text ++ ", " ++ y.text
  | .mapwith m src => "MAPWITH " ++ m.text ++ ", " ++ decText src
  | .wait => "WAIT"
  | .ack => "ACK"

/-- A line with the engine it targets: no mark stands for engine 0 (R89). -/
def lineText (e : Nat) (l : AsmLine) : String := (if e = 0 then "" else decText e ++ ": ") ++ l.text

/-! ## Reading text (R89–R91) -/

/-- Space and tab. -/
def isBlank (c : Char) : Bool := c == ' ' || c == '\t'

/-- A text without the blanks at its ends. -/
def trimBlank (l : List Char) : List Char := ((l.dropWhile isBlank).reverse.dropWhile isBlank).reverse

/-- The pieces of a text between the marks `c`. -/
def splitAtChar (c : Char) : List Char → List (List Char)
  | [] => [[]]
  | x :: rest =>
    if x = c then [] :: splitAtChar c rest
    else match splitAtChar c rest with
      | [] => [[x]]
      | piece :: pieces => (x :: piece) :: pieces

/-- The value of one digit. -/
def digitOf (base : Nat) (c : Char) : Option Nat :=
  let v :=
    if '0' ≤ c ∧ c ≤ '9' then c.toNat - '0'.toNat
    else if 'a' ≤ c ∧ c ≤ 'f' then c.toNat - 'a'.toNat + 10
    else if 'A' ≤ c ∧ c ≤ 'F' then c.toNat - 'A'.toNat + 10
    else base
  if v < base then some v else none

/-- The value of a row of digits, of which there is at least one. -/
def digitsValue (base : Nat) (l : List Char) : Option Nat :=
  if l.isEmpty then none else l.foldlM (fun n c => (digitOf base c).map (base * n + ·)) 0

/-- A decimal number, or a hexadecimal one after `0x`. -/
def readNumber : List Char → Option Nat
  | '0' :: 'x' :: ds => digitsValue 16 ds
  | ds => digitsValue 10 ds

/-- A number below a bound. -/
def readBelow (bound : Nat) (l : List Char) : Option Nat := (readNumber l).filter (· < bound)

/-- A decimal float without its trailing `f`. -/
def readFloat (l : List Char) : Option AsmValue :=
  let neg := l.head? == some '-'
  match splitAtChar '.' (if neg then l.drop 1 else l) with
  | [whole] => (digitsValue 10 whole).map fun n => .decimal neg n 0
  | [whole, frac] => do
    let w ← digitsValue 10 whole
    let f ← digitsValue 10 frac
    some (.decimal neg (w * 10 ^ frac.length + f) frac.length)
  | _ => none

/-- A value of a line (R90). -/
def readValue (l : List Char) : Option AsmValue :=
  if l.take 2 = ['0', 'x'] then (readBelow (2 ^ 32) l).map fun n => .bits (BitVec.ofNat 32 n)
  else if l.getLast? = some 'f' then readFloat l.dropLast
  else (readBelow (2 ^ 32) l).map .unsigned

/-- Every register name (10_state R30). -/
def regNames : List RegName :=
  [.cmd, .status, .ctrl, .id] ++ ([Param.posX, .posY, .scaleX, .scaleY, .z0, .z1, .z2, .triId, .shaderId, .mapId,
    .originX, .originY, .fill0, .fill1, .fill2, .fill3].map RegName.param)

/-- The register of a name. -/
def readRegName (l : List Char) : Option RegName := regNames.find? fun r => r.text.toList == l

/-- The pixel of a `NEW` or `FILLV` line. DESIGN CHOICE (assumption log 18): the spec gives no text form of it, since
R90's forms are 32-bit; any decimal or `0x` hexadecimal number below 2^128 is read, whatever PIXEL_BITS(e) is. -/
def readPixel (l : List Char) : Option Pixel := (readBelow (2 ^ 128) l).map (BitVec.ofNat 128)

/-- A line from its mnemonic and its operands (R89–R91). -/
def readForm (mnemonic : String) (operands : List (List Char)) : Option AsmLine :=
  match mnemonic, operands with
  | "CLEAR", [] => some (.command .clear)
  | "RASTER", [] => some (.command .raster)
  | "WRITE", [] => some (.command .write)
  | "WAIT", [] => some .wait
  | "ACK", [] => some .ack
  | "MAP", [src] => (readBelow 256 src).map fun n => .command (.map n)
  | "RD", [r] => (readRegName r).map .rd
  | "NEW", [p] => (readPixel p).map .new
  | "FILLV", [p] => (readPixel p).map .fillv
  | "WR", [r, v] => do some (.wr (← readRegName r) (← readValue v))
  | "ORIGIN", [x, y] => do some (.origin (← readValue x) (← readValue y))
  | "MAPWITH", [m, src] => do some (.mapwith (← readValue m) (← readBelow 256 src))
  | "TRI", values => do
    match ← values.mapM readValue with
    | [px, py, sx, sy, z0, z1, z2, handle, shader] => some (.tri px py sx sy z0 z1 z2 handle shader)
    | _ => none
  | _, _ => none

/-- The text of a line after its engine mark: the mnemonic, a blank, and the operands between commas. -/
def readBody (l : List Char) : Option AsmLine :=
  let rest := trimBlank (l.dropWhile fun c => !isBlank c)
  readForm (String.ofList (l.takeWhile fun c => !isBlank c))
    (if rest.isEmpty then [] else (splitAtChar ',' rest).map trimBlank)

/-- A line of text: the engine it targets and what it says, if anything; `none` where the syntax of R89–R91 does
not hold or the engine does not exist. A `;` begins a comment. DESIGN CHOICE (assumption log 18): the engine's number in the
mark, whose form R89 does not give, is decimal or `0x` hexadecimal. -/
def readLine (c : Platform) (l : List Char) : Option (Option (Nat × AsmLine)) :=
  let body := trimBlank (l.takeWhile (· != ';'))
  if body.isEmpty then some none
  else match splitAtChar ':' body with
    | [one] => (readBody one).map fun x => some (0, x)
    | [mark, rest] => do some (some (← readBelow c.numEngines (trimBlank mark), ← readBody (trimBlank rest)))
    | _ => none

/-- The host accesses that a text stands for, its lines in order. -/
def readText (c : Platform) (lines : List (List Char)) : Option (List Event) :=
  (lines.mapM (readLine c)).map fun read => assembleAll c (read.filterMap id)

end Sys2Proof.Machine
end

