-- ==== Sys2Proof/Safety.lean ====
section
/-! DEFINITION. What counts as a safe run: which states the engine can be in, which faults it never raises, and the
obligations on the environment (10_state R28, R37–R41, 20_memory R76, 45_interfaces R253, 60_exceptions R284). -/
namespace Sys2Proof.Machine

/-! ## Buffers and pixels -/

/-- Every element of a lane buffer has a value (10_state R28). -/
def allWritten {α : Type} (b : Buffer α) : Prop := ∀ (t : Tile) (i : Lane), (readLane b t i).isSome = true

/-- A pixel has no bit at or above PIXEL_BITS(e) (10_state R22). -/
def pixelFits (pixelBits : Nat) (p : Pixel) : Prop := narrow pixelBits p = p

/-! ## Ports and phases -/

/-- The port holds a transaction for this request: waiting, or answered by a response of its type
(45_interfaces R250). -/
def portHolds (p : PortState) (r : Request) : Prop :=
  p = .waiting r ∨ ∃ a, answers r a = true ∧ p = .answered r a

/-- ITER's position after lane i was yielded: i was in MASK, and CUR is MASK above i (41_tilemask R145, R147). -/
def iterAt (mask cur : Mask) (i : Lane) : Prop :=
  mask.getLsbD i = true ∧ ∀ j : Lane, cur.getLsbD j = (mask.getLsbD j && decide (i < j))

/-- The grids, MASK and CUR hold the values of a tile's dispatch at lane i (41_tilemask R149). -/
def dispatching (tr : Transients) (i : Lane) : Prop :=
  tr.u.isSome = true ∧ tr.v.isSome = true ∧ tr.w.isSome = true ∧ tr.lane = some i ∧
    ∃ mask cur, tr.mask = some mask ∧ tr.cur = some cur ∧ iterAt mask cur i

/-- What holds at each phase: the snapshot and transient registers that the phase's step reads are written, and
the port carries exactly the phase's request (10_state R36, R40, R41, 45_interfaces R251–R258). -/
def phaseOk (pixelBits e : Nat) (g : Engine) : Prop :=
  match g.seq with
  | .idle => g.port = .quiet
  | .clr => g.port = .quiet ∧ (g.snap.fillPixel pixelBits).isSome = true
  | .rEval _ => ∃ a pt, g.snap.rasterArgs = some a ∧ g.tr.pt = some pt ∧
      portHolds g.port (.eval a.tri pt a.scale)
  | .rCover _ => g.port = .quiet ∧ g.snap.rasterArgs.isSome = true ∧ g.tr.u.isSome = true ∧ g.tr.v.isSome = true
  | .rDepth _ => g.port = .quiet ∧ g.snap.rasterArgs.isSome = true ∧ g.tr.u.isSome = true ∧
      g.tr.v.isSome = true ∧ g.tr.w.isSome = true ∧ g.tr.mask.isSome = true
  | .rInterp _ i => dispatching g.tr i ∧ ∃ a w u v, g.snap.rasterArgs = some a ∧ g.tr.w = some w ∧
      g.tr.u = some u ∧ g.tr.v = some v ∧ portHolds g.port (.interp a.tri w[i] u[i] v[i])
  | .rFrag _ i => dispatching g.tr i ∧ ∃ a attr, g.snap.rasterArgs = some a ∧ g.tr.attr = some attr ∧
      portHolds g.port (.frag a.shader attr)
  | .rBlend t i => dispatching g.tr i ∧ ∃ a old p, g.snap.rasterArgs = some a ∧
      readLane g.color t i = some old ∧ g.tr.newpix = some p ∧ portHolds g.port (.blend a.shader old p)
  | .wPush k => ∃ ox oy n p, g.snap.writeArgs = some (ox, oy, n) ∧ g.tr.pushk = some k ∧
      readLane g.color (writeOrder ⟨e, n⟩ k).1 (writeOrder ⟨e, n⟩ k).2 = some p ∧
      portHolds g.port (.push (pushX ox (writeOrder ⟨e, n⟩ k).1 (writeOrder ⟨e, n⟩ k).2)
        (pushY oy (writeOrder ⟨e, n⟩ k).1 (writeOrder ⟨e, n⟩ k).2) p)
  | .mMap _ _ => g.port = .quiet ∧ g.snap.mapArgs.isSome = true

/-- What holds of engine e with `pixelBits` = PIXEL_BITS(e) between any two steps. -/
structure EngineOk (pixelBits e : Nat) (g : Engine) : Prop where
  /-- BUSY is 1 exactly while a command runs (10_state R39, R40). -/
  busyIff : g.busy = true ↔ g.seq ≠ .idle
  /-- FAULT_CODE is 0x0 exactly when FAULT is 0 (60_exceptions R271, R277). -/
  codeIff : g.fault = false ↔ g.code = 0
  /-- The codes 0x9–0xF are never recorded (60_exceptions R271). -/
  codeLe : g.code.toNat ≤ 8
  /-- INIT = 1 implies that every buffer element has a value (10_state R28). -/
  written : g.init = true → allWritten g.depth ∧ allWritten g.color
  /-- Only CLEAR runs while INIT = 0 (60_exceptions R276). -/
  runsInit : g.seq ≠ .idle → g.seq ≠ .clr → g.init = true
  /-- Every stored color has PIXEL_BITS(e) bits (10_state R22). -/
  colorFits : ∀ t i p, readLane g.color t i = some p → pixelFits pixelBits p
  /-- A response that has come has PIXEL_BITS(e) bits (45_interfaces R250). -/
  portFits : ∀ r a, g.port = .answered r a → a.cut pixelBits = a
  /-- A parameter register never written since reset holds its reset value 0 (10_state R37, R46). -/
  unsetZero : ∀ r, g.isValid r = false → g.param r = 0
  /-- The phase's own conditions. -/
  phase : phaseOk pixelBits e g

/-- What reset leaves of one engine (10_state R46). -/
def resetValues (g : Engine) : Prop :=
  (∀ t i, readLane g.depth t i = none) ∧ (∀ t i, readLane g.color t i = none) ∧
  g.busy = false ∧ g.fault = false ∧ g.init = false ∧ g.locked = false ∧ g.code = 0 ∧
  (∀ r, g.param r = 0 ∧ g.isValid r = false) ∧ g.seq = .idle ∧ g.port = .quiet

/-! ## The system -/

/-- Engine d runs a MAP, at lane i of tile t, that reads engine src by the selector m. -/
def mapsFrom (s : State) (d src : Nat) (m : Word) (t : Tile) (i : Lane) : Prop :=
  ∃ g, s.engine d = some g ∧ g.seq = .mMap t i ∧ g.snap.mapArgs = some (m, src)

/-- The lanes a MAP has already written hold the mapped source colors (42_tile R171). -/
def mappedBefore (pixelBits : Nat) (m : Word) (source dest : Buffer Pixel) (t : Tile) (i : Lane) : Prop :=
  ∀ (t' : Tile) (i' : Lane), numberOfLane t' i' < numberOfLane t i →
    readLane dest t' i' = (readLane source t' i').map (mapPixel pixelBits m)

/-- The invariant of the whole system. -/
structure Inv (s : State) : Prop where
  /-- The configuration is one the spec admits. -/
  config : s.cfg.Wf
  /-- The state holds NUM_ENGINES engines (60_exceptions R291). -/
  count : s.engines.length = s.cfg.numEngines
  /-- Every engine is as `EngineOk` says. -/
  each : ∀ e g, s.engine e = some g → EngineOk (s.cfg.pixelBits e) e g
  /-- A running MAP's source is another, initialised, LOCKED engine of the right width, and the lanes
  already written are mapped (44_commands R230, 20_memory R76). -/
  source : ∀ d src m t i, mapsFrom s d src m t i → src ≠ d ∧
    s.cfg.signature m = some (s.cfg.pixelBits src, s.cfg.pixelBits d) ∧
    ∃ g a, s.engine d = some g ∧ s.engine src = some a ∧ a.locked = true ∧ a.init = true ∧
      mappedBefore (s.cfg.pixelBits d) m a.color g.color t i
  /-- A LOCKED engine runs no command, and some MAP reads it (10_state R39). -/
  lockedIdle : ∀ e g, s.engine e = some g → g.locked = true → g.seq = .idle ∧
    ∃ d m t i, mapsFrom s d e m t i
  /-- Two MAPs never read the same source (44_commands R232). -/
  oneMap : ∀ d d' src m m' t t' i i', mapsFrom s d src m t i → mapsFrom s d' src m' t' i' → d = d'
  /-- While reset is asserted every engine is as reset leaves it (70_reset R300). -/
  held : s.inReset = true → ∀ e g, s.engine e = some g → resetValues g

/-- The system's runs: from reset on an admitted configuration, with any coming events, any number of steps. -/
inductive Reachable : State → Prop where
  | start (c : Platform) (inputs : List Event) : c.Wf → Reachable { State.resetOn c with inputs := inputs }
  | step (s s' : State) : Reachable s → step s = .next s' → Reachable s'

/-- The faults that 60_exceptions R284 makes proof obligations: no run of the engine raises one. -/
def isModelFault : Fault → Bool
  | .unmappedAddress => false
  | _ => true

/-! ## Depth -/

/-- A depth is a value in [-1, 1], so neither NaN nor infinite (41_tilemask R142). -/
def depthInRange (z : Binary32) : Prop :=
  f32IsFinite z = true ∧ f32Units (0xBF800000 : Binary32) ≤ f32Units z ∧ f32Units z ≤ f32Units f32One

/-! ## Progress -/

/-- How many engine steps a command still takes at most (10_state R42, 44_commands R216): 3120 for a RASTER just
accepted, 1024 for a WRITE or a MAP, 1 for a CLEAR. -/
def stepsLeft (g : Engine) : Nat :=
  let tilesAfter (t : Tile) : Nat := 195 * (15 - t.val)
  let lanesLeft : Nat := match g.tr.cur with
    | some cur => 3 * popcount cur
    | none => 0
  match g.seq with
  | .idle => 0
  | .clr => 1
  | .rEval t => tilesAfter t + 195
  | .rCover t => tilesAfter t + 194
  | .rDepth t => tilesAfter t + 193
  | .rInterp t _ => tilesAfter t + lanesLeft + 3
  | .rFrag t _ => tilesAfter t + lanesLeft + 2
  | .rBlend t _ => tilesAfter t + lanesLeft + 1
  | .wPush k => 1024 - k.val
  | .mMap t i => 1024 - (numberOfLane t i).val

/-! ## Obligations on the environment (45_interfaces R253): hypotheses of claims, never engine behaviour -/

/-- The evaluator's answer has finite weights (R253 item 4). -/
def evalFinite (u v : Grid) : Prop := ∀ i : Lane, f32IsFinite u[i] = true ∧ f32IsFinite v[i] = true

/-- The evaluator rejects every lane, as it must for a degenerate triangle (R253 item 3): at every lane a weight
with a set sign bit, the third weight being the one COVER computes. -/
def evalRejects (n : DrawId) (u v : Grid) : Prop :=
  ∀ i : Lane, f32Sign (coverW n u v)[i] = true ∨ f32Sign u[i] = true ∨ f32Sign v[i] = true

/-- Two answers never both cover a lane: the edge convention for two triangles that share an edge (R253 item 2). -/
def evalDisjoint (n n' : DrawId) (u v u' v' : Grid) : Prop :=
  coverMask (coverW n u v) u v &&& coverMask (coverW n' u' v') u' v' = 0

/-- Where the evaluator places lane i's sample: the pixel offset in the 8×8 grid (R253 item 1). -/
def sampleOffset (i : Lane) : Nat × Nat := (dx i, dy i)

end Sys2Proof.Machine
end

