-- ==== Sys2Proof/Certificates/Slice0/Obligations.lean ====
section
/-! DEFINITION. The statements for the provers, and the few notions that only they use. -/
namespace Sys2Proof.Machine

/-! ## What presenting a word does, written from 60_exceptions R276 line by line -/

/-- The three ways a presentation ends (60_exceptions R275–R277). -/
inductive Verdict where
  | silent
  | dropped (code : BitVec 4)
  | accepted (i : Instr)
deriving DecidableEq, Repr

/-- VALID is 0 for some register of a list. -/
def Engine.someUnset (g : Engine) (uses : List Param) : Bool := uses.any fun r => !g.isValid r

/-- The MAP lines of R276: `d` is the accepting engine, `src` the word's SRC field. -/
def mapVerdict (s : State) (d src : Nat) (g : Engine) : Verdict :=
  if s.cfg.numEngines ≤ src ∨ src = d then .dropped 0x3
  else if g.someUnset [.mapId] then .dropped 0x4
  else if g.init = false then .dropped 0x5
  else match s.engine src with
    | none => .dropped 0x3
    | some a =>
      if a.init = false then .dropped 0x5
      else if s.cfg.signature (g.param .mapId) ≠ some (s.cfg.pixelBits src, s.cfg.pixelBits d) then .dropped 0x6
      else if a.busy = true ∨ a.locked = true then .dropped 0x7
      else .accepted (.map src)

/-- `present(e, word)` of R276, with the code numbers of R271. -/
def verdict (s : State) (e : Nat) (g : Engine) (w : Word) : Verdict :=
  if g.fault = true then .silent
  else if g.busy = true ∨ g.locked = true then .dropped 0x2
  else match decode w with
    | .error _ => .dropped 0x1
    | .ok .clear =>
      if g.someUnset (usesClear (s.cfg.pixelBits e)) then .dropped 0x4 else .accepted .clear
    | .ok .raster =>
      if g.someUnset [.posX, .posY, .scaleX, .scaleY, .z0, .z1, .z2, .triId, .shaderId] then .dropped 0x4
      else if g.init = false then .dropped 0x5 else .accepted .raster
    | .ok .write =>
      if g.someUnset [.originX, .originY] then .dropped 0x4
      else if g.init = false then .dropped 0x5
      else if 0xFFFFFFE0 < (g.param .originX).toNat ∨ 0xFFFFFFE0 < (g.param .originY).toNat then .dropped 0x8
      else .accepted .write
    | .ok (.map src) => mapVerdict s e src g

/-- USES(c) (60_exceptions R276). -/
def usesOf (pixelBits : Nat) : Instr → List Param
  | .clear => usesClear pixelBits
  | .raster => [.posX, .posY, .scaleX, .scaleY, .z0, .z1, .z2, .triId, .shaderId]
  | .write => [.originX, .originY]
  | .map _ => [.mapId]

/-- The phase a command's acceptance enters (10_state R42). -/
def firstPhase : Instr → Phase
  | .clear => .clr
  | .raster => .rEval 0
  | .write => .wPush 0
  | .map _ => .mMap 0 0

/-! ## Frames -/

/-- Every byte the host can read is unchanged but the byte at offset 4 of the windows listed: the byte that
holds BUSY, FAULT, INIT, LOCKED and FAULT_CODE. -/
def sameBytesBut (s s' : State) (es : List Nat) : Prop :=
  ∀ a, (∀ e ∈ es, locate s.cfg a ≠ some (e, 4)) → windowByte s' a = windowByte s a

/-- Engine `g`, about to leave a tile, at R_EVAL of tile `t` with its EVAL request (42_tile R160, 43_quad_group R192). -/
def enteredTile (e : Nat) (t : Tile) (a : RasterArgs) (g : Engine) : Engine :=
  { g with
    seq := .rEval t
    port := .waiting (.eval a.tri (tilePosition ⟨e, g.fpDraws⟩ a.pos a.scale t) a.scale)
    tr := { g.tr with pt := some (tilePosition ⟨e, g.fpDraws⟩ a.pos a.scale t) }
    fpDraws := g.fpDraws + 8 }

/-- A RASTER that leaves tile `t`: the next tile's EVAL request, or the end after tile 15 (44_commands R216, R217). That the
transient registers keep their values at the end is the model's choice (assumption log 10). -/
def leftTile (e : Nat) (t : Tile) (a : RasterArgs) (g : Engine) : Engine :=
  if h : t.val + 1 < 16 then enteredTile e ⟨t.val + 1, h⟩ a g
  else { g with busy := false, seq := .idle, port := .quiet }

/-- ITER advances from CUR: the lowest lane's INTERP request, or the tile ends (41_tilemask R145, 42_tile R161). -/
def iterAdvanced (e : Nat) (t : Tile) (a : RasterArgs) (w u v : Grid) (cur : Mask) (g : Engine) : Engine :=
  if cur = 0 then leftTile e t a { g with tr := { g.tr with cur := some cur } }
  else { g with
    seq := .rInterp t (ctz cur)
    port := .waiting (.interp a.tri w[ctz cur] u[ctz cur] v[ctz cur])
    tr := { g.tr with lane := some (ctz cur), cur := some (clearbit cur (ctz cur)) } }

/-- The state after engine e's step to `g`: the engine replaced, and its new request in the history. -/
def steppedTo (s : State) (e : Nat) (g : Engine) : State :=
  match g.port with
  | .waiting r => (s.setEngine e g).log (.request e r)
  | _ => s.setEngine e g

/-- `r` is the binary32 nearest to the exact value `num / den`, in units of 2^-149: never a NaN; infinite exactly when the
value is at least the overflow threshold; of a nonzero value's sign; otherwise no finite binary32 is nearer to the value,
and of two equally near ones it is the one with an even fraction (40_lane_primitives R100). -/
def nearestTo (num : Int) (den : Nat) (r : Binary32) : Prop :=
  f32IsNaN r = false ∧ (f32IsInf r = true ↔ (2 ^ 25 - 1) * 2 ^ 252 * den ≤ num.natAbs) ∧
  (num ≠ 0 → (f32Sign r = true ↔ num < 0)) ∧
  (f32IsFinite r = true → ∀ c : Binary32, f32IsFinite c = true →
    (f32Units r * den - num).natAbs ≤ (f32Units c * den - num).natAbs ∧
    ((f32Units r * den - num).natAbs = (f32Units c * den - num).natAbs → f32Units c ≠ f32Units r → f32Frac r % 2 = 0))

/-- The step of the system is a move of engine e itself: its own event, or, with no event listed, its turn as the lowest
engine that has a step (assumption log 2). -/
def ownMove (s : State) (e : Nat) : Prop :=
  s.inReset = false ∧ ((∃ rest, s.inputs = .engine e :: rest) ∨ (s.inputs = [] ∧ firstReady s = some e))

/-- The registers of the window and their offsets (10_state R30). -/
def windowRegisters : List (RegName × Nat) :=
  [(.cmd, 0x00), (.status, 0x04), (.ctrl, 0x08), (.id, 0x0C), (.param .posX, 0x10), (.param .posY, 0x14),
   (.param .scaleX, 0x18), (.param .scaleY, 0x1C), (.param .z0, 0x20), (.param .z1, 0x24), (.param .z2, 0x28),
   (.param .triId, 0x2C), (.param .shaderId, 0x30), (.param .mapId, 0x34), (.param .originX, 0x38),
   (.param .originY, 0x3C), (.param .fill0, 0x40), (.param .fill1, 0x44), (.param .fill2, 0x48), (.param .fill3, 0x4C)]

/-! ## Runs of one engine -/

/-- `n` steps of engine e alone. -/
def engineRun : Nat → State → Nat → Option State
  | 0, s, _ => some s
  | n + 1, s, e =>
    match engineStep s e with
    | some (.next s') => engineRun n s' e
    | _ => none

/-- `n` moves of engine e and its agents: an outstanding request is answered as `agent` says, which may depend on all
that has happened (45_interfaces R259), else the engine steps. -/
def agentRun (agent : List Obs → Request → Response) : Nat → State → Nat → Option State
  | 0, s, _ => some s
  | n + 1, s, e =>
    match s.engine e with
    | none => none
    | some g =>
      match g.port with
      | .waiting r => agentRun agent n (s.answer e (agent s.history r)) e
      | _ =>
        match engineStep s e with
        | some (.next s') => agentRun agent n s' e
        | _ => none

/-- Engine e's requests in a stretch of history, the oldest first. -/
def requestsOf (e : Nat) (h : List Obs) : List Request :=
  h.reverse.filterMap fun o => match o with
    | .request e' r => if e' = e then some r else none
    | _ => none

end Sys2Proof.Machine

section
open Sys2Proof Sys2Proof.Machine

/-! ## Encoding -/

/-- Decoding an encoded well-formed instruction gives it back, as a word and as bytes with any bytes after them
(30_encoding R80–R84, R89). -/
def Obligations.DecodeOfEncode : Prop :=
  ∀ (i : Instr) (rest : List Byte), i.wellFormed = true →
    decode (encode i) = .ok i ∧ decodeBytes (encodeBytes i ++ rest) = .ok (i, rest)

/-- A word that decodes is the encoding of what it decodes to: every command has exactly one word
(30_encoding R80, R84). -/
def Obligations.EncodeOfDecode : Prop :=
  ∀ (w : Word) (i : Instr), decode w = .ok i → i.wellFormed = true ∧ encode i = w

/-- 30_encoding R85: four mask and match pairs select the commands, at most one row holds of a word, and a word
of no row is ILLEGAL. -/
def Obligations.MaskMatchTable : Prop :=
  ∀ w : Word,
    (decode w = .ok .clear ↔ w &&& 0xFFFFFFFF = 0x00000001) ∧
    (decode w = .ok .raster ↔ w &&& 0xFFFFFFFF = 0x00000002) ∧
    (decode w = .ok .write ↔ w &&& 0xFFFFFFFF = 0x00000003) ∧
    ((∃ src, decode w = .ok (.map src)) ↔ w &&& 0xFFFF00FF = 0x00000004) ∧
    ([((0xFFFFFFFF : Word), (0x00000001 : Word)), (0xFFFFFFFF, 0x00000002), (0xFFFFFFFF, 0x00000003),
      (0xFFFF00FF, 0x00000004)].countP (fun row => decide (w &&& row.1 = row.2)) ≤ 1) ∧
    ((∀ row ∈ [((0xFFFFFFFF : Word), (0x00000001 : Word)), (0xFFFFFFFF, 0x00000002), (0xFFFFFFFF, 0x00000003),
      (0xFFFF00FF, 0x00000004)], w &&& row.1 ≠ row.2) → ∃ r, decode w = .error r)

/-- 30_encoding R86: exactly the words it lists are illegal, and an idle engine without a fault drops each of
them with E_ILLEGAL; no reserved encoding has a meaning. -/
def Obligations.IllegalWords : Prop :=
  ∀ w : Word,
    ((∃ r, decode w = .error r) ↔
      w.extractLsb' 0 4 = 0 ∨ 5 ≤ (w.extractLsb' 0 4).toNat ∨ w.extractLsb' 4 4 ≠ 0 ∨ w.extractLsb' 16 16 ≠ 0 ∨
      (1 ≤ (w.extractLsb' 0 4).toNat ∧ (w.extractLsb' 0 4).toNat ≤ 3 ∧ w.extractLsb' 8 8 ≠ 0)) ∧
    ((∃ r, decode w = .error r) → ∀ (s : State) (e : Nat) (g : Engine), s.engine e = some g → g.fault = false →
      g.busy = false → g.locked = false →
      presentWord s e w = .next (State.setEngine { s with target := e } e { g with fault := true, code := 0x1 }))

/-- 30_encoding R93's example encodings, read by the decoder. -/
def Obligations.ExampleWords : Prop :=
  decode 0x00000001 = .ok .clear ∧ decode 0x00000002 = .ok .raster ∧ decode 0x00000003 = .ok .write ∧
  decode 0x00000004 = .ok (.map 0) ∧ decode 0x00000104 = .ok (.map 1) ∧ decode 0x0000FF04 = .ok (.map 255) ∧
  ∀ w ∈ [(0x00000000 : Word), 0x00000005, 0x00000011, 0x00000101, 0x00010002], ∃ r, decode w = .error r

/-! ## A step runs the decoded command -/

/-- The host's write of a command word to engine e's CMD register is one step: `exec` of the decoded command with e
as its target, the access recorded, while the reset input is released; the same for a word placed by `withFetchWord`; a
word that decodes to nothing is presented as illegal (10_state R31, 20_memory R62, R78). -/
def Obligations.StepRunsDecoded : Prop :=
  ∀ (s : State) (e : Nat) (w : Word) (rest : List Event), s.cfg.Wf → e < s.cfg.numEngines →
    s.inReset = false → s.inputs = .hostWrite (s.cfg.base e) 4 w :: rest →
    (∀ i, decode w = .ok i →
      step s = exec i { s with inputs := rest, target := e, history := .hostWrote e 0 w :: s.history }) ∧
    (∀ r, decode w = .error r →
      step s = presentIllegal { s with inputs := rest, target := e, history := .hostWrote e 0 w :: s.history }) ∧
    (∀ i v, decode v = .ok i →
      step (s.withFetchWord 32 v.toNat) = exec i
        { s with inReset := false, target := 0, history := .hostWrote 0 0 v :: s.history })

/-! ## Presenting a word: acceptance, dropping, and the return from a fault -/

/-- 60_exceptions R276: for every word and every state that meets the invariant, the presentation ends as the
procedure says, in the order of its lines: silently, with the two fault fields written and nothing else, or with
the command accepted (snapshot taken, BUSY set, its first phase entered, for MAP the source locked). -/
def Obligations.AcceptanceProcedure : Prop :=
  ∀ (s : State) (e : Nat) (w : Word) (g : Engine), Inv s → s.engine e = some g →
    match verdict s e g w with
    | .silent => presentWord s e w = .next { s with target := e }
    | .dropped c =>
      presentWord s e w = .next (State.setEngine { s with target := e } e { g with fault := true, code := c })
    | .accepted i => ∃ s' g', presentWord s e w = .next s' ∧ s'.engine e = some g' ∧ g'.busy = true ∧
        g'.seq = firstPhase i ∧ (∀ r ∈ usesOf (s.cfg.pixelBits e) i, g'.snap.reg r = some (g.param r)) ∧
        ∀ src, i = .map src → ∃ a, s'.engine src = some a ∧ a.locked = true

/-- 60_exceptions R277: once FAULT is 1 it stays 1, with its code, through every step but an acknowledge written
to that engine's CTRL register or a reset; while it is 1, every word presented is dropped with no change. -/
def Obligations.StickyFault : Prop :=
  (∀ (s s' : State) (e : Nat) (g g' : Engine), step s = .next s' → s.engine e = some g → s'.engine e = some g' →
    g.fault = true →
    (g'.fault = true ∧ g'.code = g.code) ∨ (∃ on rest, s.inputs = .reset on :: rest) ∨
    ∃ addr v rest, s.inputs = .hostWrite addr 4 v :: rest ∧ locate s.cfg addr = some (e, 8) ∧ v.getLsbD 0 = true) ∧
  (∀ (s : State) (e : Nat) (g : Engine) (w : Word), s.engine e = some g → g.fault = true →
    presentWord s e w = .next { s with target := e })

/-- 60_exceptions R278: a word dropped with a fault changes the two fault fields and no other engine, and the commands
that run are not disturbed: an engine's step, and an agent's answer, give the same result after the drop as before it,
but for the two fault fields. -/
def Obligations.DropIsPrecise : Prop :=
  ∀ (s : State) (e : Nat) (g : Engine) (c : ErrCode), s.engine e = some g →
    s.raise e g c = s.setEngine e { g with fault := true, code := c.bits } ∧
    (∀ e', e' ≠ e → (s.raise e g c).engine e' = s.engine e') ∧
    (∀ (d : Nat) (s1 : State), engineStep s d = some (.next s1) →
      ∃ g1, s1.engine e = some g1 ∧ engineStep (s.raise e g c) d = some (.next (s1.raise e g1 c))) ∧
    ∀ (d : Nat) (answer : Response), ∃ g1, (s.answer d answer).engine e = some g1 ∧
      (s.raise e g c).answer d answer = (s.answer d answer).raise e g1 c

/-- 10_state R33, 60_exceptions R280: a CTRL write with bit 0 set clears FAULT and FAULT_CODE, in every state of the engine
(with the reset input released), and does nothing else; with bit 0 clear, or while FAULT is 0, it changes nothing; CTRL
reads as 0. -/
def Obligations.Acknowledge : Prop :=
  ∀ (s : State) (e addr : Nat) (g : Engine) (v : Word) (rest : List Event), s.engine e = some g →
    s.inReset = false → locate s.cfg addr = some (e, 8) → s.inputs = .hostWrite addr 4 v :: rest →
    EngineOk (s.cfg.pixelBits e) e g →
    (v.getLsbD 0 = true → step s = .next { s with
      inputs := rest, history := .hostWrote e 8 v :: s.history,
      engines := s.engines.set e { g with fault := false, code := 0 } }) ∧
    (v.getLsbD 0 = false ∨ g.fault = false →
      step s = .next { s with inputs := rest, history := .hostWrote e 8 v :: s.history }) ∧
    readReg s.cfg e g 8 = 0

/-! ## The four commands: where each is accepted, and what its acceptance leaves -/

/-- CLEAR on an engine with no fault, not occupied, its FILL registers set: accepted, with the fill snapshotted, BUSY
set and SEQ at CLR; nothing else of the system changes (44_commands R210). The transient registers are left
unwritten, the model's choice (assumption log 10). -/
def Obligations.ClearAccepted : Prop :=
  ∀ (s : State) (g : Engine), s.engine s.target = some g → g.fault = false → g.busy = false → g.locked = false →
    (∀ r ∈ usesClear (s.cfg.pixelBits s.target), g.isValid r = true) →
    ∃ snap, exec .clear s = .next (s.setEngine s.target
        { g with busy := true, seq := .clr, snap := snap, tr := .unwritten, port := .quiet }) ∧
      (∀ r ∈ usesClear (s.cfg.pixelBits s.target), snap.reg r = some (g.param r)) ∧
      ∀ s', exec .clear s = .next s' → sameBytesBut s s' [s.target]

/-- RASTER on an initialised engine with no fault, not occupied, its nine registers set: accepted, with the operands
snapshotted, BUSY set, and tile 0's EVAL request issued; nothing else of the system changes (44_commands R215,
43_quad_group R192, 45_interfaces R251). The transient registers but PT are left unwritten, the model's choice
(assumption log 10); the draw counter is the model's own (assumption log 3). -/
def Obligations.RasterAccepted : Prop :=
  ∀ (s : State) (g : Engine), s.engine s.target = some g → g.fault = false → g.busy = false → g.locked = false →
    (∀ r ∈ usesRaster, g.isValid r = true) → g.init = true →
    ∃ snap, snap.rasterArgs = some g.rasterArgs ∧
      (let pt := tilePosition ⟨s.target, g.fpDraws⟩ ⟨g.param .posX, g.param .posY⟩ ⟨g.param .scaleX, g.param .scaleY⟩ 0
       let request : Request := .eval (g.param .triId) pt ⟨g.param .scaleX, g.param .scaleY⟩
       exec .raster s = .next ((s.setEngine s.target
        { g with
          busy := true, seq := .rEval 0, snap := snap, tr := { Transients.unwritten with pt := some pt },
          port := .waiting request, fpDraws := g.fpDraws + 8 }).log (.request s.target request))) ∧
      ∀ s', exec .raster s = .next s' → sameBytesBut s s' [s.target]

/-- WRITE on an initialised engine with no fault, not occupied, its origin set and at most 0xFFFFFFE0: accepted, with
the origin snapshotted, a push order drawn, BUSY set, and push 0 issued; nothing else of the system changes
(44_commands R225, 42_tile R168, R169). The transient registers but PUSHK are left unwritten, the model's choice
(assumption log 10); the draw counter is the model's own (assumption log 4). -/
def Obligations.WriteAccepted : Prop :=
  ∀ (s : State) (g : Engine), s.engine s.target = some g → g.fault = false → g.busy = false → g.locked = false →
    g.isValid .originX = true → g.isValid .originY = true → g.init = true →
    (g.param .originX).toNat ≤ 0xFFFFFFE0 → (g.param .originY).toNat ≤ 0xFFFFFFE0 → allWritten g.color →
    ∃ snap p, snap.writeArgs = some (g.param .originX, g.param .originY, g.writeDraws) ∧
      (let at0 := writeOrder ⟨s.target, g.writeDraws⟩ 0
       let request : Request := .push (pushX (g.param .originX) at0.1 at0.2) (pushY (g.param .originY) at0.1 at0.2) p
       readLane g.color at0.1 at0.2 = some p ∧
       exec .write s = .next ((s.setEngine s.target
        { g with
          busy := true, seq := .wPush 0, snap := snap, tr := { Transients.unwritten with pushk := some 0 },
          port := .waiting request, writeDraws := g.writeDraws + 1 }).log (.request s.target request))) ∧
      ∀ s', exec .write s = .next s' → sameBytesBut s s' [s.target]

/-- MAP on an initialised engine with no fault, not occupied, MAP_ID set, whose source is another existing, initialised,
unoccupied engine of the widths the selector names: accepted, with the selector and the source snapshotted, BUSY
set and SEQ at M_MAP(0, 0) here, LOCKED set there, and nothing else of the system changed (44_commands R230). The
transient registers are left unwritten, the model's choice (assumption log 10). -/
def Obligations.MapAccepted : Prop :=
  ∀ (s : State) (src : Nat) (g a : Engine), s.engine s.target = some g → s.engine src = some a →
    src < s.cfg.numEngines → s.cfg.numEngines ≤ 256 → src ≠ s.target →
    g.fault = false → g.busy = false → g.locked = false → g.isValid .mapId = true → g.init = true →
    a.init = true → a.busy = false → a.locked = false →
    s.cfg.signature (g.param .mapId) = some (s.cfg.pixelBits src, s.cfg.pixelBits s.target) →
    ∃ snap, snap.mapArgs = some (g.param .mapId, src) ∧
      exec (.map src) s = .next ((s.setEngine s.target
        { g with busy := true, seq := .mMap 0 0, snap := snap, tr := .unwritten, port := .quiet }).setEngine src
        { a with locked := true }) ∧
      ∀ s', exec (.map src) s = .next s' → sameBytesBut s s' [s.target, src]

/-! ## CLEAR's engine step -/

/-- 42_tile R165 and 44_commands R210: an accepted CLEAR's one engine step leaves every depth 1.0, every color the fill
pixel of the FILL registers, INIT 1, BUSY 0 and SEQ at IDLE; it changes no other engine, no parameter register, no VALID
bit, no fault field and not LOCKED, and makes no port request. The engine's snapshot and transient registers are not
spoken of. -/
def Obligations.ClearCompletes : Prop :=
  ∀ (s : State) (g : Engine), s.engine s.target = some g → g.fault = false → g.busy = false → g.locked = false →
    (∀ r ∈ usesClear (s.cfg.pixelBits s.target), g.isValid r = true) →
    ∃ s1 s2 g2, exec .clear s = .next s1 ∧ engineStep s1 s.target = some (.next s2) ∧
      s2 = s.setEngine s.target g2 ∧ g2.init = true ∧ g2.busy = false ∧ g2.seq = .idle ∧
      (∀ t i, readLane g2.depth t i = some 0x3F800000) ∧
      (∀ t i, readLane g2.color t i = some (g.fillPixel (s.cfg.pixelBits s.target))) ∧
      g2.params = g.params ∧ g2.valid = g.valid ∧ g2.fault = g.fault ∧ g2.code = g.code ∧ g2.locked = g.locked ∧
      s2.history = s.history

/-- 20_memory R66: bit j of the fill pixel is bit j mod 32 of FILL register j div 32, for j below PIXEL_BITS; no other
bit is set, and FILL registers at NFW and above play no part. -/
def Obligations.FillPacking : Prop :=
  ∀ (pixelBits : Nat) (g : Engine), pixelBits ≤ 128 →
    (∀ j, ((g.fillPixel pixelBits).getLsbD j = true ↔ j < pixelBits ∧
      ∃ (w : Nat) (r : Param), [(0, Param.fill0), (1, .fill1), (2, .fill2), (3, .fill3)][w]? = some (w, r) ∧
        w = j / 32 ∧ (g.param r).getLsbD (j % 32) = true)) ∧
    ∀ (g' : Engine), (∀ r ∈ usesClear pixelBits, g'.param r = g.param r) →
      g'.fillPixel pixelBits = g.fillPixel pixelBits

/-- 42_tile R166: two CLEARs with the same fill, back to back, leave the same DEPTH, COLOR and INIT as one, and
make no port call. -/
def Obligations.ClearIdempotent : Prop :=
  ∀ (s : State) (g : Engine), s.engine s.target = some g → g.fault = false → g.busy = false → g.locked = false →
    (∀ r ∈ usesClear (s.cfg.pixelBits s.target), g.isValid r = true) →
    ∃ s1 s2 s3 s4 g2 g4, exec .clear s = .next s1 ∧ engineStep s1 s.target = some (.next s2) ∧
      exec .clear s2 = .next s3 ∧ engineStep s3 s.target = some (.next s4) ∧
      s2.engine s.target = some g2 ∧ s4.engine s.target = some g4 ∧
      g4.depth = g2.depth ∧ g4.color = g2.color ∧ g4.init = g2.init ∧ s4.history = s.history

/-! ## RASTER's engine steps -/

/-- 44_commands R216, 42_tile R161: the step that takes the EVAL response latches U and V, in lane order, and goes to
R_COVER(t); the one that takes the INTERP response latches ATTR and issues the FRAG request with it and the shader
handle; the one that takes the FRAG response latches NEWPIX and issues the BLEND request with the shader handle, the
stored color first and the new pixel second. Nothing else changes. -/
def Obligations.ResponsesTaken : Prop :=
  ∀ (s : State) (e : Nat) (g : Engine) (t : Tile) (i : Lane) (a : RasterArgs) (r : Request),
    s.engine e = some g → g.snap.rasterArgs = some a →
    (∀ u v : Grid, g.seq = .rEval t → answers r (.eval u v) = true → g.port = .answered r (.eval u v) →
      engineStep s e = some (.next (s.setEngine e
        { g with seq := .rCover t, port := .quiet, tr := { g.tr with u := some u, v := some v } }))) ∧
    (∀ attr : Attr, g.seq = .rInterp t i → answers r (.interp attr) = true → g.port = .answered r (.interp attr) →
      engineStep s e = some (.next (steppedTo s e
        { g with tr := { g.tr with attr := some attr }, seq := .rFrag t i,
                 port := .waiting (.frag a.shader attr) }))) ∧
    (∀ p old : Pixel, g.seq = .rFrag t i → answers r (.frag p) = true → g.port = .answered r (.frag p) →
      readLane g.color t i = some old →
      engineStep s e = some (.next (steppedTo s e
        { g with tr := { g.tr with newpix := some p }, seq := .rBlend t i,
                 port := .waiting (.blend a.shader old p) })))

/-- 41_tilemask R131, R132: W = (1 - U) - V with each difference rounded, lane by lane, and for finite U and V it does
not depend on any NaN draw; a lane is inside exactly when none of its three weights has its sign bit set, and the
mask is 0 when no lane is inside. -/
def Obligations.CoverLanes : Prop :=
  (∀ (n : DrawId) (u v : Grid),
    (∀ i : Lane, ∃ n1 n2, (coverW n u v)[i] = fsub n2 (fsub n1 0x3F800000 u[i]) v[i]) ∧
    (evalFinite u v → ∀ n' : DrawId, coverW n' u v = coverW n u v)) ∧
  ∀ (w u v : Grid),
    (∀ i : Lane, (coverMask w u v).getLsbD i = true ↔
      w[i].getLsbD 31 = false ∧ u[i].getLsbD 31 = false ∧ v[i].getLsbD 31 = false) ∧
    (coverMask w u v = 0 ↔
      ∀ i : Lane, w[i].getLsbD 31 = true ∨ u[i].getLsbD 31 = true ∨ v[i].getLsbD 31 = true)

/-- 45_interfaces R253 items 2 and 3 as hypotheses: an answer that rejects every lane gives mask 0 and only then; two
answers that never both cover a lane leave no lane alive in both masks after any depth tests. -/
def Obligations.EvaluatorContract : Prop :=
  (∀ (n : DrawId) (u v : Grid), evalRejects n u v ↔ coverMask (coverW n u v) u v = 0) ∧
  ∀ (n n' k k' : DrawId) (u v u' v' old z old' z' : Grid), evalDisjoint n n' u v u' v' →
    depthMask k (coverMask (coverW n u v) u v) old z &&& depthMask k' (coverMask (coverW n' u' v') u' v') old' z' = 0

/-- 42_tile R160, 41_tilemask R130, 44_commands R216, R217 at R_COVER(t): the step forms W and MASK; a zero mask ends
the tile with DEPTH, COLOR and every other port untouched (the next tile's EVAL request, or the end after tile 15), any
other mask goes to R_DEPTH(t). The draw counter is the model's own (assumption log 3); that the transient registers keep
their values at the command's end is the model's choice (assumption log 10). -/
def Obligations.CoverStep : Prop :=
  ∀ (s : State) (e : Nat) (g : Engine) (t : Tile) (a : RasterArgs) (u v : Grid),
    s.engine e = some g → g.seq = .rCover t → g.port = .quiet → g.snap.rasterArgs = some a →
    g.tr.u = some u → g.tr.v = some v →
    let w := coverW ⟨e, g.fpDraws⟩ u v
    let m := coverMask w u v
    let g1 : Engine := { g with tr := { g.tr with w := some w, mask := some m }, fpDraws := g.fpDraws + 128 }
    engineStep s e = some (.next (steppedTo s e (if m = 0 then leftTile e t a g1 else { g1 with seq := .rDepth t })))

/-- 41_tilemask R137, R138, R140: DEPTHTEST on a tile whose depths are written. Z is (w*z0 + u*z1) + v*z2, rounded
operation by operation; a lane stays in MASK only if it was in it and both signs are clear; a surviving lane's depth
becomes Z, every other lane and every other tile keeps its depth; nothing else changes but the model's own draw counter.
At R_DEPTH(t) all of it happens in the one engine step that also starts ITER: the tile's first INTERP request, or the end
of the tile (R145, 44_commands R216). The draw counter's 448 operations of the tile, and the 8 of the next tile's
placement, are the model's own numbering (assumption log 3); that the transient registers keep their values at the
command's end is the model's choice (assumption log 10). -/
def Obligations.DepthTestLanes : Prop :=
  ∀ (e : Nat) (t : Tile) (g : Engine) (a : RasterArgs) (w u v old : Grid) (mask : Mask),
    g.snap.rasterArgs = some a → g.tr.w = some w → g.tr.u = some u → g.tr.v = some v → g.tr.mask = some mask →
    (∀ i, readLane g.depth t i = some old[i]) →
    ∃ (z : Grid) (m : Mask) (depth : Buffer Binary32),
      (let g1 : Engine :=
        { g with tr := { g.tr with z := some z, mask := some m }, depth := depth, fpDraws := g.fpDraws + 448 }
       depthTest e t g = .ok g1 ∧ ∀ s : State, s.engine e = some g → g.seq = .rDepth t →
        engineStep s e = some (.next (steppedTo s e (iterAdvanced e t a w u v m g1)))) ∧
      (∀ i : Lane, ∃ n0 n1 n2 n3 n4 n5 n6,
        z[i] = fadd n4 (fadd n3 (fmul n0 w[i] a.z0) (fmul n1 u[i] a.z1)) (fmul n2 v[i] a.z2) ∧
        (m.getLsbD i = true ↔ mask.getLsbD i = true ∧ (fsub n5 old[i] z[i]).getLsbD 31 = false ∧
          (fadd n6 z[i] 0x3F800000).getLsbD 31 = false)) ∧
      (∀ i : Lane, readLane depth t i = some (if m.getLsbD i then z[i] else old[i])) ∧
      ∀ t' i, t' ≠ t → readLane depth t' i = readLane g.depth t' i

/-- 44_commands R216 at R_DEPTH(t): one step runs DEPTHTEST with its depth write and starts ITER: the lowest surviving
lane's INTERP request is issued with its weights in the order w, u, v, or the tile ends; COLOR is untouched
(41_tilemask R145, R146, 42_tile R160, R161). Where the tile ends, the draw number and the draw counter of the next tile's
placement are the model's own (assumption log 3); that the transient registers keep their values at the command's end is
the model's choice (assumption log 10). -/
def Obligations.DepthStep : Prop :=
  ∀ (s : State) (e : Nat) (g g1 : Engine) (t : Tile) (a : RasterArgs) (w u v : Grid) (m : Mask),
    s.engine e = some g → g.seq = .rDepth t → g.port = .quiet → depthTest e t g = .ok g1 →
    g.snap.rasterArgs = some a → g.tr.w = some w → g.tr.u = some u → g.tr.v = some v → g1.tr.mask = some m →
    engineStep s e = some (.next (steppedTo s e (iterAdvanced e t a w u v m g1))) ∧ g1.color = g.color

/-- 41_tilemask R147: ITER yields each set bit of MASK exactly once, in strictly ascending lane order, and no other
lane, popcount(MASK) items in all. -/
def Obligations.IterYields : Prop :=
  ∀ m : Mask, (iterYields 65 m).Pairwise (fun i j => i < j) ∧
    (∀ i : Lane, i ∈ iterYields 65 m ↔ m.getLsbD i = true) ∧ (iterYields 65 m).length = popcount m

/-- 42_tile R162, R163, 44_commands R216, R217 at R_BLEND(t, i): the response is stored into COLOR[t][i] and into no
other element, and ITER advances: the next surviving lane's INTERP request, or the next tile, or after tile 15 the end
of the command. DEPTH is untouched. Where the tile ends, the draw number and the draw counter of the next tile's placement
are the model's own (assumption log 3); that the transient registers keep their values at the command's end is the
model's choice (assumption log 10). -/
def Obligations.BlendTaken : Prop :=
  ∀ (s : State) (e : Nat) (g : Engine) (t : Tile) (i : Lane) (a : RasterArgs) (w u v : Grid) (cur : Mask)
    (r : Request) (p : Pixel),
    s.engine e = some g → g.seq = .rBlend t i → answers r (.blend p) = true → g.port = .answered r (.blend p) →
    g.snap.rasterArgs = some a → g.tr.w = some w → g.tr.u = some u → g.tr.v = some v → g.tr.cur = some cur →
    ∃ color : Buffer Pixel,
      engineStep s e = some (.next (steppedTo s e
        (iterAdvanced e t a w u v cur { g with color := color, port := .quiet }))) ∧
      readLane color t i = some p ∧
      ∀ t' i', (t', i') ≠ (t, i) → readLane color t' i' = readLane g.color t' i'

/-- 44_commands R219, first case: a RASTER whose every tile has COVER mask 0 makes exactly 16 EVAL requests, one per tile
in ascending order at PT(t), and no other request, and leaves DEPTH and COLOR as they were (43_quad_group R190, R194).
The agent is any, and may depend on the whole history (45_interfaces R259); all that is asked of it is that whenever the
run reaches a waiting request, its answer is one whose COVER mask is 0. That a tile takes the draw numbers of 136
operations, 8 for its placement and 128 for COVER, is the model's own numbering (assumption log 3). -/
def Obligations.RasterOutsideBlock : Prop :=
  ∀ (s : State) (g : Engine) (agent : List Obs → Request → Response), s.engine s.target = some g → g.fault = false →
    g.busy = false → g.locked = false → (∀ r ∈ usesRaster, g.isValid r = true) → g.init = true →
    ∃ s1, exec .raster s = .next s1 ∧
      ((∀ n s' g' r, agentRun agent n s1 s.target = some s' → s'.engine s.target = some g' → g'.port = .waiting r →
        ∃ u v, agent s'.history r = .eval u v ∧ coverMask (coverW ⟨s.target, g'.fpDraws⟩ u v) u v = 0) →
      ∃ s2 g2 h, agentRun agent 48 s1 s.target = some s2 ∧
        s2.engine s.target = some g2 ∧ g2.busy = false ∧ g2.seq = .idle ∧ g2.depth = g.depth ∧ g2.color = g.color ∧
        g2.fault = false ∧ g2.init = true ∧ s2.history = h ++ s.history ∧
        requestsOf s.target h = (List.finRange 16).map fun t : Tile => Request.eval (g.param .triId)
          (tilePosition ⟨s.target, g.fpDraws + 136 * t.val⟩ ⟨g.param .posX, g.param .posY⟩
            ⟨g.param .scaleX, g.param .scaleY⟩ t) ⟨g.param .scaleX, g.param .scaleY⟩)

/-! ## WRITE's and MAP's engine steps -/

/-- 44_commands R225 at W_PUSH(k), once the sink has taken push k: push k + 1 is issued, with the stored color of the
lane the drawn order gives it, at that lane's coordinates; after push 1023 the command ends. No buffer changes
(42_tile R168–R170). That the transient registers keep their values at the command's end is the model's choice (assumption
log 10). -/
def Obligations.PushTaken : Prop :=
  ∀ (s : State) (e : Nat) (g : Engine) (k : Fin 1024) (r : Request) (ox oy : Word) (n : Nat),
    s.engine e = some g → g.seq = .wPush k → g.tr.pushk = some k → answers r .ack = true →
    g.port = .answered r .ack → g.snap.writeArgs = some (ox, oy, n) → allWritten g.color →
    (∀ h : k.val + 1 < 1024, ∃ p,
      readLane g.color (writeOrder ⟨e, n⟩ ⟨k.val + 1, h⟩).1 (writeOrder ⟨e, n⟩ ⟨k.val + 1, h⟩).2 = some p ∧
      engineStep s e = some (.next (steppedTo s e
        { g with
          seq := .wPush ⟨k.val + 1, h⟩, tr := { g.tr with pushk := some ⟨k.val + 1, h⟩ },
          port := .waiting (.push
            (pushX ox (writeOrder ⟨e, n⟩ ⟨k.val + 1, h⟩).1 (writeOrder ⟨e, n⟩ ⟨k.val + 1, h⟩).2)
            (pushY oy (writeOrder ⟨e, n⟩ ⟨k.val + 1, h⟩).1 (writeOrder ⟨e, n⟩ ⟨k.val + 1, h⟩).2) p) }))) ∧
    (k.val = 1023 → engineStep s e = some (.next (s.setEngine e
      { g with busy := false, seq := .idle, port := .quiet })))

/-- 42_tile R168 and 44_commands R225, a whole WRITE: with a sink that takes every push, the command ends after 1024
answers and 1024 engine steps, its requests are exactly the 1024 pushes in the drawn order, one for each lane of each
tile, and no buffer changed. -/
def Obligations.WriteWhole : Prop :=
  ∀ (s : State) (g : Engine), s.engine s.target = some g → g.fault = false → g.busy = false → g.locked = false →
    g.isValid .originX = true → g.isValid .originY = true → g.init = true →
    (g.param .originX).toNat ≤ 0xFFFFFFE0 → (g.param .originY).toNat ≤ 0xFFFFFFE0 → allWritten g.color →
    (∀ t i, ∃! k, writeOrder ⟨s.target, g.writeDraws⟩ k = (t, i)) ∧
    ∃ s1 s2 g2 h, exec .write s = .next s1 ∧ agentRun (fun _ _ => .ack) 2048 s1 s.target = some s2 ∧
      s2.engine s.target = some g2 ∧ g2.busy = false ∧ g2.seq = .idle ∧ g2.depth = g.depth ∧ g2.color = g.color ∧
      g2.init = true ∧ g2.fault = false ∧ s2.history = h ++ s.history ∧
      requestsOf s.target h = (List.finRange 1024).map fun k =>
        let lane := writeOrder ⟨s.target, g.writeDraws⟩ k
        Request.push (pushX (g.param .originX) lane.1 lane.2) (pushY (g.param .originY) lane.1 lane.2)
          ((readLane g.color lane.1 lane.2).getD 0)

/-- 44_commands R226, 42_tile R169, R170: for origins that WRITE accepts, no coordinate wraps, lane i of tile t is pushed
at the origin plus the tile's offset plus the lane's, which is where the evaluator places its sample (45_interfaces
R253), and in every push order each pixel of the 32×32 block is pushed exactly once. -/
def Obligations.WriteCoordinates : Prop :=
  ∀ (n : DrawId) (ox oy : Word), ox.toNat ≤ 0xFFFFFFE0 → oy.toNat ≤ 0xFFFFFFE0 →
    (∀ (t : Tile) (i : Lane),
      (pushX ox t i).toNat = ox.toNat + (16 * (t.val / 4 % 2) + 8 * (t.val % 4 % 2)) + i.val % 8 ∧
      (pushY oy t i).toNat = oy.toNat + (16 * (t.val / 4 / 2) + 8 * (t.val % 4 / 2)) + i.val / 8 ∧
      sampleOffset i = (i.val % 8, i.val / 8)) ∧
    ∀ x y : Fin 32, ∃! k : Fin 1024,
      (pushX ox (writeOrder n k).1 (writeOrder n k).2).toNat = ox.toNat + x.val ∧
      (pushY oy (writeOrder n k).1 (writeOrder n k).2).toNat = oy.toNat + y.val

/-- 42_tile R171, 44_commands R231 at M_MAP(t, i): the one element COLOR_d[t][i] takes the mapped value of the source's
element, cut to PIXEL_BITS(d); SEQ goes to the next lane, and after lane 63 of tile 15 the command ends and the source
is unlocked. DEPTH of d and everything else of the source stay. That d's transient registers keep their values
at the end is the model's choice (assumption log 10), as is the cut (assumption log 5). -/
def Obligations.MapStep : Prop :=
  ∀ (s : State) (d src : Nat) (g a : Engine) (t : Tile) (i : Lane) (m : Word) (p : Pixel),
    s.engine d = some g → s.engine src = some a → src ≠ d → g.seq = .mMap t i → g.snap.mapArgs = some (m, src) →
    readLane a.color t i = some p →
    ∃ color : Buffer Pixel, readLane color t i = some (narrow (s.cfg.pixelBits d) (Config.mapFn m p)) ∧
      (∀ t' i', (t', i') ≠ (t, i) → readLane color t' i' = readLane g.color t' i') ∧
      (∀ t' i', (numberOfLane t' i').val = (numberOfLane t i).val + 1 →
        engineStep s d = some (.next (s.setEngine d { g with color := color, seq := .mMap t' i' }))) ∧
      (t = 15 → i = 63 → engineStep s d = some (.next
        ((s.setEngine d { g with color := color, busy := false, seq := .idle, port := .quiet }).setEngine src
          { a with locked := false })))

/-- 42_tile R172, 44_commands R230: a whole MAP. From its acceptance, 1024 steps of the destination leave every element of
its COLOR the mapped value of the source's element, and its DEPTH, parameter registers, VALID bits and flags, the whole
source, unlocked again, and every other engine as they were; no port request is made. The destination's snapshot and
transient registers are not spoken of. That the mapped value is cut to PIXEL_BITS(d) is the model's (assumption log 5). -/
def Obligations.MapWhole : Prop :=
  ∀ (s : State) (src : Nat) (g a : Engine), s.engine s.target = some g → s.engine src = some a →
    src < s.cfg.numEngines → s.cfg.numEngines ≤ 256 → src ≠ s.target →
    g.fault = false → g.busy = false → g.locked = false → g.isValid .mapId = true → g.init = true →
    a.init = true → a.busy = false → a.locked = false → allWritten a.color →
    s.cfg.signature (g.param .mapId) = some (s.cfg.pixelBits src, s.cfg.pixelBits s.target) →
    ∃ s1 s2 g2, exec (.map src) s = .next s1 ∧ engineRun 1024 s1 s.target = some s2 ∧
      s2.engine s.target = some g2 ∧ g2.busy = false ∧ g2.seq = .idle ∧ g2.depth = g.depth ∧ g2.init = true ∧
      g2.params = g.params ∧ g2.valid = g.valid ∧ g2.fault = false ∧ g2.code = g.code ∧ g2.locked = false ∧
      (∀ t i, readLane g2.color t i = (readLane a.color t i).map
        fun p => narrow (s.cfg.pixelBits s.target) (Config.mapFn (g.param .mapId) p)) ∧
      s2.engine src = some a ∧ (∀ e, e ≠ s.target → e ≠ src → s2.engine e = s.engine e) ∧ s2.history = s.history

/-! ## Ports -/

/-- 45_interfaces R250: while an engine waits for a response it takes no step of its own; an answer of the port's type
reaches it and changes nothing else but the history. That its pixels are cut to PIXEL_BITS(e) is the model's choice
(assumption log 15), and so is that an answer of another type, or one with no request outstanding, changes nothing
(assumption log 9). -/
def Obligations.PortProtocol : Prop :=
  ∀ (s : State) (e : Nat) (g : Engine), s.engine e = some g → EngineOk (s.cfg.pixelBits e) e g →
    (∀ r, g.port = .waiting r → engineStep s e = none ∧
      ∀ a, (answers r a = true → s.answer e a = (s.setEngine e
          { g with port := .answered r (a.cut (s.cfg.pixelBits e)) }).log
            (.response e (a.cut (s.cfg.pixelBits e)))) ∧
        (answers r a = false → s.answer e a = s)) ∧
    ((∀ r, g.port ≠ .waiting r) → ∀ a, s.answer e a = s)

/-! ## The register window -/

/-- 20_memory R62: a 32-bit write of an aligned offset below 0x100, case by case: CMD presents the word, CTRL
acknowledges, a parameter register is stored and its VALID bit set, every other offset ignores it (with the reset input
released). -/
def Obligations.HostWriteTable : Prop :=
  ∀ (s : State) (e off : Nat) (g : Engine) (v : Word) (rest : List Event), s.cfg.Wf → s.engine e = some g →
    e < s.cfg.numEngines → off < 0x100 → off % 4 = 0 → s.inReset = false →
    s.inputs = .hostWrite (s.cfg.base e + off) 4 v :: rest →
    let s0 : State := { s with inputs := rest, history := .hostWrote e off v :: s.history }
    (off = 0x00 → step s = presentWord s0 e v) ∧
    (off = 0x04 ∨ off = 0x0C ∨ 0x50 ≤ off → step s = .next s0) ∧
    (off = 0x08 → v.getLsbD 0 = true → step s = .next (s0.setEngine e { g with fault := false, code := 0 })) ∧
    (off = 0x08 → v.getLsbD 0 = false → step s = .next s0) ∧
    ∀ r : Param, off = 0x10 + 4 * r.place.val → step s = .next (s0.setEngine e
      { g with params := g.params.set r.place v, valid := g.valid.set r.place true })

/-- 20_memory R63: a 32-bit read of an aligned offset below 0x100 returns, with no side effect: 0 for CMD, CTRL and the
reserved offsets, the flags for STATUS, ID, and the stored value of a parameter register. That a
read made while reset is asserted completes and is recorded is the model's choice (assumption log 16). -/
def Obligations.HostReadTable : Prop :=
  ∀ (s : State) (e off : Nat) (g : Engine) (rest : List Event), s.cfg.Wf → s.engine e = some g →
    e < s.cfg.numEngines → off < 0x100 → off % 4 = 0 → s.inputs = .hostRead (s.cfg.base e + off) 4 :: rest →
    ∃ v : Word, step s = .next { s with inputs := rest, history := .hostRead e off v :: s.history } ∧
      (off = 0x00 ∨ off = 0x08 ∨ 0x50 ≤ off → v = 0) ∧
      (off = 0x04 → v = (0 : BitVec 24) ++ g.code ++ BitVec.ofBool g.locked ++ BitVec.ofBool g.init ++
        BitVec.ofBool g.fault ++ BitVec.ofBool g.busy) ∧
      (off = 0x0C → v = idWord e (s.cfg.pixelBits e)) ∧
      ∀ r : Param, off = 0x10 + 4 * r.place.val → v = g.param r

/-- 10_state R34: the fields of ID. -/
def Obligations.IdFields : Prop :=
  ∀ e pixelBits : Nat, e < 256 → pixelBits ≤ 128 →
    (idWord e pixelBits).extractLsb' 0 8 = 8 ∧ (idWord e pixelBits).extractLsb' 8 4 = 2 ∧
    (idWord e pixelBits).extractLsb' 12 4 = 0 ∧ ((idWord e pixelBits).extractLsb' 16 8).toNat = pixelBits ∧
    ((idWord e pixelBits).extractLsb' 24 8).toNat = e

/-- 20_memory R64: an access that is not 4 bytes wide, or not at a multiple of 4, has no step. -/
def Obligations.BadAccessStops : Prop :=
  ∀ (s : State) (addr width e off : Nat) (v : Word) (rest : List Event), locate s.cfg addr = some (e, off) →
    width ≠ 4 ∨ off % 4 ≠ 0 →
    (s.inputs = .hostWrite addr width v :: rest →
      step s = .refused (.badAccess s.cfg.busErrorOnBadAccess)) ∧
    (s.inputs = .hostRead addr width :: rest → step s = .refused (.badAccess s.cfg.busErrorOnBadAccess)) ∧
    (s.inputs = .hostWait addr :: rest → off % 4 ≠ 0 → step s = .refused (.badAccess s.cfg.busErrorOnBadAccess))

/-- That an access to, or a poll of a WAIT at, an address of no engine's window stops, by the model fault `unmappedAddress`,
is the model's choice (assumption log 14): 20_memory R60 and R70 give the engines no other address space, and do not say
what such an access does. -/
def Obligations.UnmappedStops : Prop :=
  ∀ (s : State) (addr width : Nat) (v : Word) (rest : List Event),
    (∀ k ∈ s.cfg.engines, addr < k.base ∨ k.base + 0x100 ≤ addr) →
    (s.inputs = .hostWrite addr width v :: rest → step s = .fault .unmappedAddress) ∧
    (s.inputs = .hostRead addr width :: rest → step s = .fault .unmappedAddress) ∧
    (s.inputs = .hostWait addr :: rest → step s = .fault .unmappedAddress)

/-- 20_memory R65: byte off + j of the window holds bits 8j+7 : 8j of the register at off, for j = 0 to 3; after a write
of a parameter register those bytes are the value written, and every other byte of every window reads as before. -/
def Obligations.WindowByteOrder : Prop :=
  ∀ (s : State) (e : Nat) (g : Engine) (r : Param) (v : Word), s.cfg.Wf → s.engine e = some g →
    e < s.cfg.numEngines →
    (∀ off j, off < 0x100 → off % 4 = 0 → j < 4 → windowByte s (s.cfg.base e + off + j) =
      some ((readReg s.cfg e g off).extractLsb' (8 * j) 8)) ∧
    (∀ j, j < 4 → windowByte (writeReg s e (0x10 + 4 * r.place.val) v)
      (s.cfg.base e + 0x10 + 4 * r.place.val + j) = some (v.extractLsb' (8 * j) 8)) ∧
    ∀ addr, (∀ j, j < 4 → addr ≠ s.cfg.base e + 0x10 + 4 * r.place.val + j) →
      windowByte (writeReg s e (0x10 + 4 * r.place.val) v) addr = windowByte s addr

/-- 30_encoding R89 to R92: the host accesses of the register lines, the commands and the pseudo-instructions, with the
register offsets of 10_state R30. A `WR` line's value is its 32-bit pattern, its number, or the binary32 nearest to its
decimal float, `digits / 10^places` with a sign (R90; that a float 0 with a minus sign is -0.0, and that one past the
overflow threshold is infinite, is assumption log 18's). WAIT is the event `hostWait` on STATUS, and its steps are
R91's repetition: each poll reads STATUS; with BUSY 0 the WAIT is over, with
BUSY 1 it stays the host's next access. That between two polls the next listed event that is no host access happens, or
with none listed the lowest engine that has a step takes it, is the model's choice (assumption log 18); that a poll made
while reset is asserted completes is the model's choice too (assumption log 16). -/
def Obligations.PseudoInstructions : Prop :=
  (∀ (c : Platform) (e : Nat) (px py sx sy z0 z1 z2 handle shader : AsmValue) (fill : Pixel) (src : Nat),
    assemble c e (.tri px py sx sy z0 z1 z2 handle shader) =
      ([(0x10, px.word), (0x14, py.word), (0x18, sx.word), (0x1C, sy.word), (0x20, z0.word), (0x24, z1.word),
        (0x28, z2.word), (0x2C, handle.word), (0x30, shader.word)].map
        fun x => Event.hostWrite (c.base e + x.1) 4 x.2) ∧
    assemble c e (.origin px py) = [.hostWrite (c.base e + 0x38) 4 px.word, .hostWrite (c.base e + 0x3C) 4 py.word] ∧
    assemble c e (.mapwith px src) =
      [.hostWrite (c.base e + 0x34) 4 px.word, .hostWrite (c.base e) 4 (encode (.map src))] ∧
    assemble c e (.new fill) = assemble c e (.fillv fill) ++ [.hostWrite (c.base e) 4 0x00000001] ∧
    assemble c e (.fillv fill) = (List.range (max 1 (fillWords (c.pixelBits e)))).filterMap (fun w =>
      if w < 4 then some (Event.hostWrite (c.base e + 0x40 + 4 * w) 4 (fill.extractLsb' (32 * w) 32)) else none) ∧
    assemble c e .ack = [.hostWrite (c.base e + 0x08) 4 0x00000001] ∧
    assemble c e .wait = [.hostWait (c.base e + 0x04)] ∧
    (∀ i : Instr, assemble c e (.command i) = [.hostWrite (c.base e) 4 (encode i)]) ∧
    ∀ (r : RegName) (v : AsmValue), ∃ off, (r, off) ∈ windowRegisters ∧
      assemble c e (.wr r v) = [.hostWrite (c.base e + off) 4 v.word] ∧
      assemble c e (.rd r) = [.hostRead (c.base e + off) 4]) ∧
  (encode .clear = 0x00000001 ∧ encode .raster = 0x00000002 ∧ encode .write = 0x00000003 ∧
    ∀ src, src < 256 → (encode (.map src)).toNat = 0x00000004 + 256 * src) ∧
  (∀ w : Word, (AsmValue.bits w).word = w) ∧ (∀ k, k < 2 ^ 32 → (AsmValue.unsigned k).word.toNat = k) ∧
  (∀ (neg : Bool) (digits places : Nat),
    nearestTo ((if neg then -1 else 1) * ((digits * 2 ^ 149 : Nat) : Int)) (10 ^ places)
      (AsmValue.decimal neg digits places).word ∧
    (AsmValue.decimal neg 0 places).word = if neg then 0x80000000 else 0x00000000) ∧
  ∀ (s : State) (e : Nat) (g : Engine) (rest : List Event), s.cfg.Wf → s.engine e = some g → e < s.cfg.numEngines →
    s.inputs = assemble s.cfg e .wait ++ rest →
    ∃ later, step s = .next { s with inputs := later, history := .hostRead e 4 g.status :: s.history } ∧
      (g.busy = false → later = rest) ∧
      (g.busy = true → later.filter Event.isHost = s.inputs.filter Event.isHost ∧
        (∀ ev ∈ rest, ev.isHost = false → later.filter (fun ev => !ev.isHost) = rest.filter (fun ev => !ev.isHost) ∧
          ∃ next tail, later = next :: tail ∧ next.isHost = false) ∧
        ((∀ ev ∈ rest, ev.isHost = true) →
          (∀ d, (engineStep s d).isSome = true → (∀ d' < d, engineStep s d' = none) → later = .engine d :: s.inputs) ∧
          ((∀ d, engineStep s d = none) → later = s.inputs)))

/-! ## Arithmetic and placement -/

/-- 40_lane_primitives R100: the sum and the difference of two finite values, each rounded once, to nearest, ties to even
(`nearestTo`). A sum that is exactly zero is -0.0 only for -0.0 + -0.0, and a difference only for -0.0 - +0.0; otherwise it
is +0.0. Values are in units of 2^-149. With an infinite operand, where R101 gives no NaN, the sum is that infinity; the
difference is the infinity of the minuend, or of the subtrahend with its sign reversed (as in 41_tilemask R133, R139). -/
def Obligations.AddRoundsToNearest : Prop :=
  ∀ (n : DrawId) (a b : Binary32),
    (f32IsFinite a = true → f32IsFinite b = true →
      nearestTo (f32Units a + f32Units b) 1 (fadd n a b) ∧ nearestTo (f32Units a - f32Units b) 1 (fsub n a b) ∧
      (f32Units a + f32Units b = 0 →
        fadd n a b = if a = 0x80000000 ∧ b = 0x80000000 then 0x80000000 else 0x00000000) ∧
      (f32Units a - f32Units b = 0 →
        fsub n a b = if a = 0x80000000 ∧ b = 0x00000000 then 0x80000000 else 0x00000000)) ∧
    (f32IsInf a = true → f32IsFinite b = true ∨ (f32IsInf b = true ∧ f32Sign b = f32Sign a) → fadd n a b = a) ∧
    (f32IsFinite a = true → f32IsInf b = true → fadd n a b = b) ∧
    (f32IsInf a = true → f32IsFinite b = true ∨ (f32IsInf b = true ∧ f32Sign b ≠ f32Sign a) → fsub n a b = a) ∧
    (f32IsFinite a = true → f32IsInf b = true →
      fsub n a b = if f32Sign b then (0x7F800000 : Binary32) else 0xFF800000)

/-- 40_lane_primitives R100: the product of two finite values, in the same terms; the exact product is in units of
2^-298, and the sign is the exclusive or of the operands' signs. With an infinite operand and no NaN and no zero among the
operands, the product is the infinity of that sign. -/
def Obligations.MulRoundsToNearest : Prop :=
  ∀ (n : DrawId) (a b : Binary32),
    (f32IsFinite a = true → f32IsFinite b = true →
      nearestTo (f32Units a * f32Units b) (2 ^ 149) (fmul n a b) ∧
      f32Sign (fmul n a b) = (f32Sign a != f32Sign b)) ∧
    (f32IsNaN a = false → f32IsNaN b = false → f32IsInf a = true ∨ f32IsInf b = true →
      ¬(f32IsFinite a = true ∧ f32Units a = 0) → ¬(f32IsFinite b = true ∧ f32Units b = 0) →
      fmul n a b = if f32Sign a = f32Sign b then (0x7F800000 : Binary32) else 0xFF800000)

/-- 40_lane_primitives R101: when an operation returns a NaN. Which NaN is free: nothing here, and nothing in the model,
says more of it than that it is one. -/
def Obligations.NanResults : Prop :=
  ∀ (n : DrawId) (a b : Binary32),
    (f32IsNaN (fadd n a b) = true ↔ f32IsNaN a = true ∨ f32IsNaN b = true ∨
      (f32IsInf a = true ∧ f32IsInf b = true ∧ f32Sign a ≠ f32Sign b)) ∧
    (f32IsNaN (fsub n a b) = true ↔ f32IsNaN a = true ∨ f32IsNaN b = true ∨
      (f32IsInf a = true ∧ f32IsInf b = true ∧ f32Sign a = f32Sign b)) ∧
    (f32IsNaN (fmul n a b) = true ↔ f32IsNaN a = true ∨ f32IsNaN b = true ∨
      (f32IsInf a = true ∧ f32IsFinite b = true ∧ f32Units b = 0) ∨
      (f32IsInf b = true ∧ f32IsFinite a = true ∧ f32Units a = 0))

/-- 41_tilemask R143: on finite values a clear sign of a - b means a ≥ b; a ≥ b means a clear sign, except for
a = -0.0 with b = +0.0, whose difference is -0.0; and a clear sign of b + 1.0 means exactly b ≥ -1. -/
def Obligations.SignTestsCompare : Prop :=
  ∀ (n : DrawId) (a b : Binary32), f32IsFinite a = true → f32IsFinite b = true →
    (f32Sign (fsub n a b) = false → f32Units b ≤ f32Units a) ∧
    (f32Units b ≤ f32Units a → ¬(a = 0x80000000 ∧ b = 0x00000000) → f32Sign (fsub n a b) = false) ∧
    (a = 0x80000000 → b = 0x00000000 → fsub n a b = 0x80000000) ∧
    (f32Sign (fadd n b 0x3F800000) = false ↔ f32Units (0xBF800000 : Binary32) ≤ f32Units b)

/-- 41_tilemask R142: if every depth of a tile is in [-1, 1] and a DEPTHTEST leaves no NaN in it, every depth of it is in
[-1, 1] after. -/
def Obligations.DepthStaysInRange : Prop :=
  ∀ (e : Nat) (t : Tile) (g g' : Engine), depthTest e t g = .ok g' →
    (∀ i z, readLane g.depth t i = some z → depthInRange z) →
    (∀ i z, readLane g'.depth t i = some z → f32IsNaN z = false) →
    ∀ i z, readLane g'.depth t i = some z → depthInRange z

/-- 40_lane_primitives R103, R104: the lane operations, lane by lane. -/
def Obligations.LaneOperations : Prop :=
  ∀ (a b : Grid) (c : Binary32) (m : Mask) (n : Lane → DrawId) (i : Lane),
    (signmask a).getLsbD i = a[i].getLsbD 31 ∧ (broadcast c)[i] = c ∧
    (lanesub n a b)[i] = fsub (n i) a[i] b[i] ∧ (laneadd n a b)[i] = fadd (n i) a[i] b[i] ∧
    (lanemul n a c)[i] = fmul (n i) a[i] c ∧ (select m a b)[i] = if m.getLsbD i then a[i] else b[i]

/-- 40_lane_primitives R111, R116: the TileIndex laws, and the bijection from the lanes of the tiles to the pixels of the
block, with the inverse R116 gives. -/
def Obligations.LaneGeometry : Prop :=
  (∀ column row : Fin 8, (laneIndex column row).val = column.val * 8 + row.val ∧
    lo3 (laneIndex column row) = row ∧ hi3 (laneIndex column row) = column) ∧
  (∀ i : Lane, (hi3 i).val * 8 + (lo3 i).val = i.val) ∧
  (∀ (t : Tile) (i : Lane), ∃ (x y : Fin 32), x.val = blockX t i ∧ y.val = blockY t i ∧
    tileAt x y = t ∧ laneAt x y = i ∧ x.val = tileX t + i.val % 8 ∧ y.val = tileY t + i.val / 8) ∧
  ∀ x y : Fin 32, blockX (tileAt x y) (laneAt x y) = x.val ∧ blockY (tileAt x y) (laneAt x y) = y.val ∧
    (tileAt x y).val = 4 * (x.val / 16 + 2 * (y.val / 16)) + (x.val / 8 % 2 + 2 * (y.val / 8 % 2)) ∧
    (laneAt x y).val = 8 * (y.val % 8) + x.val % 8

/-- 43_quad_group R192: tile t's position is the outer Quad's rounded sum first and the inner Quad's after it, with a zero
offset component added as +0.0. -/
def Obligations.TilePlacement : Prop :=
  ∀ (n : DrawId) (pos scale : Point) (t : Tile), ∃ n0 n1 n2 n3 n4 n5 n6 n7,
    (tilePosition n pos scale t).x =
      fadd n6 (fadd n4 pos.x (if t.val / 4 % 2 = 1 then fmul n0 scale.x 0x41800000 else 0))
        (if t.val % 4 % 2 = 1 then fmul n2 scale.x 0x41000000 else 0) ∧
    (tilePosition n pos scale t).y =
      fadd n7 (fadd n5 pos.y (if t.val / 4 / 2 = 1 then fmul n1 scale.y 0x41800000 else 0))
        (if t.val % 4 / 2 = 1 then fmul n3 scale.y 0x41000000 else 0)

/-! ## Whole-machine rules -/

/-- 10_state R46, 70_reset R300: what the reset input leaves, when it is asserted and when it is released, from every
state, and what `State.resetOn` is on every configuration: buffers unwritten, flags, code and parameter registers 0, VALID
bits 0, SEQ at IDLE, ID constant, and no port request outstanding; the configuration stays. While reset is asserted
nothing but its release ends it, and whatever the host, the agents or the engines do, every engine stays as it is. The
input's level, and that the engines stay, are read from R300 (assumption log 16, DEDUCED); that a release while reset is
not asserted resets too is the model's choice (assumption log 16). -/
def Obligations.ResetState : Prop :=
  (∀ (s : State) (on : Bool) (rest : List Event), s.inputs = .reset on :: rest →
    ∃ s', step s = .next s' ∧ s'.cfg = s.cfg ∧ s'.inReset = on ∧ s'.inputs = rest ∧
      s'.engines.length = s.engines.length ∧ ∀ e g, s'.engine e = some g → resetValues g ∧
        readReg s'.cfg e g 0x0C = idWord e (s.cfg.pixelBits e)) ∧
  (∀ (c : Platform) (e : Nat) (g : Engine), (State.resetOn c).engine e = some g → resetValues g) ∧
  ∀ s s' : State, s.inReset = true → step s = .next s' → (∀ on rest, s.inputs ≠ .reset on :: rest) →
    s'.inReset = true ∧ ∀ e, s'.engine e = s.engine e

/-- 10_state R38: INIT is 0 after reset and becomes 1 only in a CLEAR's completing step; once 1 it stays 1 until the
next reset. -/
def Obligations.InitOnlyByClear : Prop :=
  ∀ (s s' : State) (e : Nat) (g g' : Engine), step s = .next s' → s.engine e = some g → s'.engine e = some g' →
    (g'.init = true → g.init = false → g.seq = .clr ∧ g'.seq = .idle ∧ g'.busy = false) ∧
    (g.init = true → g'.init = false → ∃ on rest, s.inputs = .reset on :: rest)

/-- 10_state R35, R37: a parameter register and its VALID bit change only by a host write of that register or by reset, and
such a write sets the bit. -/
def Obligations.ParametersByHostOnly : Prop :=
  ∀ (s s' : State) (e : Nat) (g g' : Engine) (r : Param), step s = .next s' → s.engine e = some g →
    s'.engine e = some g' → g'.param r ≠ g.param r ∨ g'.isValid r ≠ g.isValid r →
    (∃ on rest, s.inputs = .reset on :: rest) ∨
    ∃ addr v rest, s.inputs = .hostWrite addr 4 v :: rest ∧
      locate s.cfg addr = some (e, 0x10 + 4 * r.place.val) ∧ g'.param r = v ∧ g'.isValid r = true

/-- 10_state R24, R25: DEPTH changes only in CLEAR's step, in a RASTER's depth test or by reset; COLOR only in CLEAR's
step, in a BLEND response step, in a MAP step of the destination, or by reset. But for the reset, the step is a move of the
engine itself (`ownMove`): no access, no answer and no other engine's move changes a buffer. That with no event listed the
lowest engine that has a step moves is the model's choice (assumption log 2). -/
def Obligations.BufferWriters : Prop :=
  ∀ (s s' : State) (e : Nat) (g g' : Engine), step s = .next s' → s.engine e = some g → s'.engine e = some g' →
    (g'.depth ≠ g.depth → (∃ on rest, s.inputs = .reset on :: rest) ∨
      (ownMove s e ∧ (g.seq = .clr ∨ ∃ t, g.seq = .rDepth t))) ∧
    (g'.color ≠ g.color → (∃ on rest, s.inputs = .reset on :: rest) ∨
      (ownMove s e ∧ (g.seq = .clr ∨ (∃ t i, g.seq = .rBlend t i) ∨ ∃ t i, g.seq = .mMap t i)))

/-- 70_reset R302: no step changes the configuration, and no engine appears or disappears. -/
def Obligations.ConfigurationFixed : Prop :=
  ∀ s s' : State, step s = .next s' → s'.cfg = s.cfg ∧ s'.engines.length = s.engines.length

/-- 10_state R45: an engine's step, a word presented to it, and a write to its registers change no other engine, but
that a MAP's acceptance sets, and its last step clears, its source's LOCKED bit. -/
def Obligations.EnginesIndependent : Prop :=
  ∀ (s s' : State) (d e : Nat), e ≠ d →
    (engineStep s d = some (.next s') → s'.engine e = s.engine e ∨
      ∃ g m, s.engine d = some g ∧ g.seq = .mMap 15 63 ∧ g.snap.mapArgs = some (m, e) ∧
        s'.engine e = (s.engine e).map fun a => { a with locked := false }) ∧
    (∀ w, presentWord s d w = .next s' → s'.engine e = s.engine e ∨
      (decode w = .ok (.map e) ∧ s'.engine e = (s.engine e).map fun a => { a with locked := true })) ∧
    (∀ off v, (writeReg s d off v).engine e = s.engine e)

/-- 20_memory R72: a register write other than a command word does not change what any running command does: an
engine's step after the write gives what the write gives after the step. -/
def Obligations.HostWritesCommute : Prop :=
  ∀ (s s1 : State) (d e off : Nat) (v : Word), engineStep s d = some (.next s1) →
    engineStep (writeReg s e off v) d = some (.next (writeReg s1 e off v))

/-! ## Invariants, safety and progress -/

/-- The invariant holds right after reset, on every configuration that the spec admits and with any coming events, and
at the model's own `State.reset`, whose configuration is the model's choice (assumption log 1). -/
def Obligations.InvAtReset : Prop :=
  (∀ (c : Platform) (inputs : List Event), c.Wf → Inv { State.resetOn c with inputs := inputs }) ∧ Inv State.reset

/-- Every step keeps the invariant: BUSY is 1 exactly while a command runs, FAULT_CODE is 0 exactly when FAULT is and is
never above 8, INIT means that every element is written, a running MAP's source is another initialised LOCKED engine
whose mapped colors the destination already holds, each phase finds the registers and the port it reads, and while reset
is asserted every engine is as reset leaves it (70_reset R300). -/
def Obligations.StepKeepsInv : Prop :=
  ∀ s s' : State, Inv s → step s = .next s' → Inv s'

/-- 10_state R27, 60_exceptions R284: in a state that meets the invariant a step never reads an unwritten element,
transient or snapshot register, and never finds an engine missing. It stops with the fault `unmappedAddress` or the
refusal `badAccess` only; an access of 4 bytes at a multiple of 4 inside a window (20_memory R62, R63, R64), a poll of a
WAIT there (30_encoding R91), every event that is no host access, and the step with no event listed answer a next state.
That an access completes while
reset is asserted is the model's choice (assumption log 16), as are the step with no event and the event for an engine
that has no step (assumption log 2), the answer that no request awaits (assumption log 9), and the fault's name
(assumption log 14). -/
def Obligations.NoModelFault : Prop :=
  ∀ s : State, Inv s →
    (∀ f, step s = .fault f → f = .unmappedAddress) ∧ (∀ r, step s = .refused r → ∃ b, r = .badAccess b) ∧
    (∀ addr e off v rest, locate s.cfg addr = some (e, off) → off % 4 = 0 →
      (s.inputs = .hostWrite addr 4 v :: rest ∨ s.inputs = .hostRead addr 4 :: rest ∨
        s.inputs = .hostWait addr :: rest) → ∃ s', step s = .next s') ∧
    (s.inputs = [] → ∃ s', step s = .next s') ∧
    ∀ ev rest, s.inputs = ev :: rest → ev.isHost = false → ∃ s', step s = .next s'

/-- Every run, from reset on any admitted configuration under any events, stays in the invariant and raises no model
fault (60_exceptions R284). -/
def Obligations.RunsAreSafe : Prop :=
  ∀ s : State, Reachable s → Inv s ∧ ∀ f, step s = .fault f → isModelFault f = false

/-- 10_state R42, 44_commands R216, 70_reset R321: a running engine has a step, or waits for a port's agent; each of its
steps lowers the bound on the steps left; no step of the system, be it an access, an answer or another engine's move,
raises it, and the engine's own move (`ownMove`) lowers it unless it waits; and a command just accepted has at most 3120
steps left: 1 for CLEAR, 3120 for RASTER, 1024 for WRITE and MAP. That with no event listed the lowest engine that has a
step moves is the model's choice (assumption log 2). -/
def Obligations.BoundedProgress : Prop :=
  (∀ (s : State) (e : Nat) (g : Engine), Inv s → s.engine e = some g → g.seq ≠ .idle →
    (∃ r, g.port = .waiting r) ∨ ∃ s' g', engineStep s e = some (.next s') ∧ s'.engine e = some g' ∧
      stepsLeft g' < stepsLeft g) ∧
  (∀ (s s' : State) (e : Nat) (g g' : Engine), Inv s → step s = .next s' → s.engine e = some g →
    s'.engine e = some g' → g.seq ≠ .idle → stepsLeft g' ≤ stepsLeft g ∧
      (ownMove s e → (∀ r, g.port ≠ .waiting r) → stepsLeft g' < stepsLeft g)) ∧
  ∀ (s s' : State) (i : Instr) (g g' : Engine), Inv s → s.engine s.target = some g → g.busy = false →
    exec i s = .next s' → s'.engine s.target = some g' → g'.busy = true →
    stepsLeft g' = match i with
      | .clear => 1
      | .raster => 3120
      | .write => 1024
      | .map _ => 1024

/-- 20_memory R76: while a MAP runs, its source is LOCKED, so no step of the system but a reset changes the source's
COLOR. -/
def Obligations.MapSourceFrozen : Prop :=
  ∀ (s s' : State) (d src : Nat) (m : Word) (t : Tile) (i : Lane) (a a' : Engine), Inv s → mapsFrom s d src m t i →
    step s = .next s' → s.engine src = some a → s'.engine src = some a' → (∀ on rest, s.inputs ≠ .reset on :: rest) →
    a.locked = true ∧ a'.color = a.color
end
end

