-- ==== Sys2Proof/Laws/Binary32.lean ====
section
/-! SUPPORT. The three operations on finite operands, where no NaN is drawn (40_lane_primitives R100). -/
namespace Sys2Proof.Machine

/-- A finite value is no NaN and no infinity. -/
theorem f32IsFinite_class (a : Binary32) (h : f32IsFinite a = true) : f32IsNaN a = false ∧ f32IsInf a = false := by
  have he : f32Exp a ≠ 255 := by simpa [f32IsFinite] using h
  simp [f32IsNaN, f32IsInf, he]

/-- The sum of finite values is `addFinite`'s, whatever the NaN draw. -/
theorem addWith_finite (nan a b : Binary32) (ha : f32IsFinite a = true) (hb : f32IsFinite b = true) :
    addWith nan a b = addFinite a b := by
  simp [addWith, f32IsFinite_class a ha, f32IsFinite_class b hb]

theorem fadd_finite (n : DrawId) (a b : Binary32) (ha : f32IsFinite a = true) (hb : f32IsFinite b = true) :
    fadd n a b = addFinite a b := addWith_finite _ a b ha hb

theorem fsub_finite (n : DrawId) (a b : Binary32) (ha : f32IsFinite a = true) (hb : f32IsFinite (f32Neg b) = true) :
    fsub n a b = addFinite a (f32Neg b) := addWith_finite _ a _ ha hb

theorem fmul_finite (n : DrawId) (a b : Binary32) (ha : f32IsFinite a = true) (hb : f32IsFinite b = true) :
    fmul n a b = mulFinite a b := by
  simp [fmul, f32IsFinite_class a ha, f32IsFinite_class b hb]

end Sys2Proof.Machine
end

