-- ==== Sys2Proof/Laws/State.lean ====
section
/-! SUPPORT. One lemma per field per update of the state records, and engine lookup after each update. -/
namespace Sys2Proof.Machine

/-! ## Updates of one engine -/

@[simp] theorem Engine.setParam_depth (g : Engine) (r : Param) (v : Word) : (g.setParam r v).depth = g.depth := rfl
@[simp] theorem Engine.setParam_color (g : Engine) (r : Param) (v : Word) : (g.setParam r v).color = g.color := rfl
@[simp] theorem Engine.setParam_params (g : Engine) (r : Param) (v : Word) :
    (g.setParam r v).params = g.params.set r.place v := rfl
@[simp] theorem Engine.setParam_valid (g : Engine) (r : Param) (v : Word) :
    (g.setParam r v).valid = g.valid.set r.place true := rfl
@[simp] theorem Engine.setParam_busy (g : Engine) (r : Param) (v : Word) : (g.setParam r v).busy = g.busy := rfl
@[simp] theorem Engine.setParam_fault (g : Engine) (r : Param) (v : Word) : (g.setParam r v).fault = g.fault := rfl
@[simp] theorem Engine.setParam_init (g : Engine) (r : Param) (v : Word) : (g.setParam r v).init = g.init := rfl
@[simp] theorem Engine.setParam_locked (g : Engine) (r : Param) (v : Word) :
    (g.setParam r v).locked = g.locked := rfl
@[simp] theorem Engine.setParam_code (g : Engine) (r : Param) (v : Word) : (g.setParam r v).code = g.code := rfl
@[simp] theorem Engine.setParam_seq (g : Engine) (r : Param) (v : Word) : (g.setParam r v).seq = g.seq := rfl
@[simp] theorem Engine.setParam_tr (g : Engine) (r : Param) (v : Word) : (g.setParam r v).tr = g.tr := rfl
@[simp] theorem Engine.setParam_snap (g : Engine) (r : Param) (v : Word) : (g.setParam r v).snap = g.snap := rfl
@[simp] theorem Engine.setParam_port (g : Engine) (r : Param) (v : Word) : (g.setParam r v).port = g.port := rfl
@[simp] theorem Engine.setParam_fpDraws (g : Engine) (r : Param) (v : Word) :
    (g.setParam r v).fpDraws = g.fpDraws := rfl
@[simp] theorem Engine.setParam_writeDraws (g : Engine) (r : Param) (v : Word) :
    (g.setParam r v).writeDraws = g.writeDraws := rfl

@[simp] theorem Engine.raise_depth (g : Engine) (c : ErrCode) : (g.raise c).depth = g.depth := rfl
@[simp] theorem Engine.raise_color (g : Engine) (c : ErrCode) : (g.raise c).color = g.color := rfl
@[simp] theorem Engine.raise_params (g : Engine) (c : ErrCode) : (g.raise c).params = g.params := rfl
@[simp] theorem Engine.raise_valid (g : Engine) (c : ErrCode) : (g.raise c).valid = g.valid := rfl
@[simp] theorem Engine.raise_busy (g : Engine) (c : ErrCode) : (g.raise c).busy = g.busy := rfl
@[simp] theorem Engine.raise_fault (g : Engine) (c : ErrCode) : (g.raise c).fault = true := rfl
@[simp] theorem Engine.raise_init (g : Engine) (c : ErrCode) : (g.raise c).init = g.init := rfl
@[simp] theorem Engine.raise_locked (g : Engine) (c : ErrCode) : (g.raise c).locked = g.locked := rfl
@[simp] theorem Engine.raise_code (g : Engine) (c : ErrCode) : (g.raise c).code = c.bits := rfl
@[simp] theorem Engine.raise_seq (g : Engine) (c : ErrCode) : (g.raise c).seq = g.seq := rfl
@[simp] theorem Engine.raise_tr (g : Engine) (c : ErrCode) : (g.raise c).tr = g.tr := rfl
@[simp] theorem Engine.raise_snap (g : Engine) (c : ErrCode) : (g.raise c).snap = g.snap := rfl
@[simp] theorem Engine.raise_port (g : Engine) (c : ErrCode) : (g.raise c).port = g.port := rfl
@[simp] theorem Engine.raise_fpDraws (g : Engine) (c : ErrCode) : (g.raise c).fpDraws = g.fpDraws := rfl
@[simp] theorem Engine.raise_writeDraws (g : Engine) (c : ErrCode) : (g.raise c).writeDraws = g.writeDraws := rfl

@[simp] theorem Engine.acknowledge_depth (g : Engine) : g.acknowledge.depth = g.depth := rfl
@[simp] theorem Engine.acknowledge_color (g : Engine) : g.acknowledge.color = g.color := rfl
@[simp] theorem Engine.acknowledge_params (g : Engine) : g.acknowledge.params = g.params := rfl
@[simp] theorem Engine.acknowledge_valid (g : Engine) : g.acknowledge.valid = g.valid := rfl
@[simp] theorem Engine.acknowledge_busy (g : Engine) : g.acknowledge.busy = g.busy := rfl
@[simp] theorem Engine.acknowledge_fault (g : Engine) : g.acknowledge.fault = false := rfl
@[simp] theorem Engine.acknowledge_init (g : Engine) : g.acknowledge.init = g.init := rfl
@[simp] theorem Engine.acknowledge_locked (g : Engine) : g.acknowledge.locked = g.locked := rfl
@[simp] theorem Engine.acknowledge_code (g : Engine) : g.acknowledge.code = 0 := rfl
@[simp] theorem Engine.acknowledge_seq (g : Engine) : g.acknowledge.seq = g.seq := rfl
@[simp] theorem Engine.acknowledge_tr (g : Engine) : g.acknowledge.tr = g.tr := rfl
@[simp] theorem Engine.acknowledge_snap (g : Engine) : g.acknowledge.snap = g.snap := rfl
@[simp] theorem Engine.acknowledge_port (g : Engine) : g.acknowledge.port = g.port := rfl
@[simp] theorem Engine.acknowledge_fpDraws (g : Engine) : g.acknowledge.fpDraws = g.fpDraws := rfl
@[simp] theorem Engine.acknowledge_writeDraws (g : Engine) : g.acknowledge.writeDraws = g.writeDraws := rfl

@[simp] theorem Engine.start_depth (g : Engine) (snap : Snapshot) : (g.start snap).depth = g.depth := rfl
@[simp] theorem Engine.start_color (g : Engine) (snap : Snapshot) : (g.start snap).color = g.color := rfl
@[simp] theorem Engine.start_params (g : Engine) (snap : Snapshot) : (g.start snap).params = g.params := rfl
@[simp] theorem Engine.start_valid (g : Engine) (snap : Snapshot) : (g.start snap).valid = g.valid := rfl
@[simp] theorem Engine.start_busy (g : Engine) (snap : Snapshot) : (g.start snap).busy = true := rfl
@[simp] theorem Engine.start_fault (g : Engine) (snap : Snapshot) : (g.start snap).fault = g.fault := rfl
@[simp] theorem Engine.start_init (g : Engine) (snap : Snapshot) : (g.start snap).init = g.init := rfl
@[simp] theorem Engine.start_locked (g : Engine) (snap : Snapshot) : (g.start snap).locked = g.locked := rfl
@[simp] theorem Engine.start_code (g : Engine) (snap : Snapshot) : (g.start snap).code = g.code := rfl
@[simp] theorem Engine.start_seq (g : Engine) (snap : Snapshot) : (g.start snap).seq = g.seq := rfl
@[simp] theorem Engine.start_tr (g : Engine) (snap : Snapshot) : (g.start snap).tr = .unwritten := rfl
@[simp] theorem Engine.start_snap (g : Engine) (snap : Snapshot) : (g.start snap).snap = snap := rfl
@[simp] theorem Engine.start_port (g : Engine) (snap : Snapshot) : (g.start snap).port = .quiet := rfl
@[simp] theorem Engine.start_fpDraws (g : Engine) (snap : Snapshot) : (g.start snap).fpDraws = g.fpDraws := rfl
@[simp] theorem Engine.start_writeDraws (g : Engine) (snap : Snapshot) :
    (g.start snap).writeDraws = g.writeDraws := rfl

@[simp] theorem Engine.finish_depth (g : Engine) : g.finish.depth = g.depth := rfl
@[simp] theorem Engine.finish_color (g : Engine) : g.finish.color = g.color := rfl
@[simp] theorem Engine.finish_params (g : Engine) : g.finish.params = g.params := rfl
@[simp] theorem Engine.finish_valid (g : Engine) : g.finish.valid = g.valid := rfl
@[simp] theorem Engine.finish_busy (g : Engine) : g.finish.busy = false := rfl
@[simp] theorem Engine.finish_fault (g : Engine) : g.finish.fault = g.fault := rfl
@[simp] theorem Engine.finish_init (g : Engine) : g.finish.init = g.init := rfl
@[simp] theorem Engine.finish_locked (g : Engine) : g.finish.locked = g.locked := rfl
@[simp] theorem Engine.finish_code (g : Engine) : g.finish.code = g.code := rfl
@[simp] theorem Engine.finish_seq (g : Engine) : g.finish.seq = .idle := rfl
@[simp] theorem Engine.finish_tr (g : Engine) : g.finish.tr = g.tr := rfl
@[simp] theorem Engine.finish_snap (g : Engine) : g.finish.snap = g.snap := rfl
@[simp] theorem Engine.finish_port (g : Engine) : g.finish.port = .quiet := rfl
@[simp] theorem Engine.finish_fpDraws (g : Engine) : g.finish.fpDraws = g.fpDraws := rfl
@[simp] theorem Engine.finish_writeDraws (g : Engine) : g.finish.writeDraws = g.writeDraws := rfl

@[simp] theorem Engine.lock_depth (g : Engine) : g.lock.depth = g.depth := rfl
@[simp] theorem Engine.lock_color (g : Engine) : g.lock.color = g.color := rfl
@[simp] theorem Engine.lock_params (g : Engine) : g.lock.params = g.params := rfl
@[simp] theorem Engine.lock_valid (g : Engine) : g.lock.valid = g.valid := rfl
@[simp] theorem Engine.lock_busy (g : Engine) : g.lock.busy = g.busy := rfl
@[simp] theorem Engine.lock_fault (g : Engine) : g.lock.fault = g.fault := rfl
@[simp] theorem Engine.lock_init (g : Engine) : g.lock.init = g.init := rfl
@[simp] theorem Engine.lock_locked (g : Engine) : g.lock.locked = true := rfl
@[simp] theorem Engine.lock_code (g : Engine) : g.lock.code = g.code := rfl
@[simp] theorem Engine.lock_seq (g : Engine) : g.lock.seq = g.seq := rfl
@[simp] theorem Engine.lock_tr (g : Engine) : g.lock.tr = g.tr := rfl
@[simp] theorem Engine.lock_snap (g : Engine) : g.lock.snap = g.snap := rfl
@[simp] theorem Engine.lock_port (g : Engine) : g.lock.port = g.port := rfl
@[simp] theorem Engine.lock_fpDraws (g : Engine) : g.lock.fpDraws = g.fpDraws := rfl
@[simp] theorem Engine.lock_writeDraws (g : Engine) : g.lock.writeDraws = g.writeDraws := rfl

@[simp] theorem Engine.unlock_depth (g : Engine) : g.unlock.depth = g.depth := rfl
@[simp] theorem Engine.unlock_color (g : Engine) : g.unlock.color = g.color := rfl
@[simp] theorem Engine.unlock_params (g : Engine) : g.unlock.params = g.params := rfl
@[simp] theorem Engine.unlock_valid (g : Engine) : g.unlock.valid = g.valid := rfl
@[simp] theorem Engine.unlock_busy (g : Engine) : g.unlock.busy = g.busy := rfl
@[simp] theorem Engine.unlock_fault (g : Engine) : g.unlock.fault = g.fault := rfl
@[simp] theorem Engine.unlock_init (g : Engine) : g.unlock.init = g.init := rfl
@[simp] theorem Engine.unlock_locked (g : Engine) : g.unlock.locked = false := rfl
@[simp] theorem Engine.unlock_code (g : Engine) : g.unlock.code = g.code := rfl
@[simp] theorem Engine.unlock_seq (g : Engine) : g.unlock.seq = g.seq := rfl
@[simp] theorem Engine.unlock_tr (g : Engine) : g.unlock.tr = g.tr := rfl
@[simp] theorem Engine.unlock_snap (g : Engine) : g.unlock.snap = g.snap := rfl
@[simp] theorem Engine.unlock_port (g : Engine) : g.unlock.port = g.port := rfl
@[simp] theorem Engine.unlock_fpDraws (g : Engine) : g.unlock.fpDraws = g.fpDraws := rfl
@[simp] theorem Engine.unlock_writeDraws (g : Engine) : g.unlock.writeDraws = g.writeDraws := rfl

/-! ## Updates of the system -/

@[simp] theorem State.setEngine_cfg (s : State) (e : Nat) (g : Engine) : (s.setEngine e g).cfg = s.cfg := rfl
@[simp] theorem State.setEngine_engines (s : State) (e : Nat) (g : Engine) :
    (s.setEngine e g).engines = s.engines.set e g := rfl
@[simp] theorem State.setEngine_inReset (s : State) (e : Nat) (g : Engine) :
    (s.setEngine e g).inReset = s.inReset := rfl
@[simp] theorem State.setEngine_inputs (s : State) (e : Nat) (g : Engine) :
    (s.setEngine e g).inputs = s.inputs := rfl
@[simp] theorem State.setEngine_target (s : State) (e : Nat) (g : Engine) :
    (s.setEngine e g).target = s.target := rfl
@[simp] theorem State.setEngine_history (s : State) (e : Nat) (g : Engine) :
    (s.setEngine e g).history = s.history := rfl

@[simp] theorem State.modifyEngine_cfg (s : State) (e : Nat) (f : Engine → Engine) :
    (s.modifyEngine e f).cfg = s.cfg := rfl
@[simp] theorem State.modifyEngine_engines (s : State) (e : Nat) (f : Engine → Engine) :
    (s.modifyEngine e f).engines = s.engines.modify e f := rfl
@[simp] theorem State.modifyEngine_inReset (s : State) (e : Nat) (f : Engine → Engine) :
    (s.modifyEngine e f).inReset = s.inReset := rfl
@[simp] theorem State.modifyEngine_inputs (s : State) (e : Nat) (f : Engine → Engine) :
    (s.modifyEngine e f).inputs = s.inputs := rfl
@[simp] theorem State.modifyEngine_target (s : State) (e : Nat) (f : Engine → Engine) :
    (s.modifyEngine e f).target = s.target := rfl
@[simp] theorem State.modifyEngine_history (s : State) (e : Nat) (f : Engine → Engine) :
    (s.modifyEngine e f).history = s.history := rfl

@[simp] theorem State.log_cfg (s : State) (o : Obs) : (s.log o).cfg = s.cfg := rfl
@[simp] theorem State.log_engines (s : State) (o : Obs) : (s.log o).engines = s.engines := rfl
@[simp] theorem State.log_inReset (s : State) (o : Obs) :
    (s.log o).inReset = s.inReset := rfl
@[simp] theorem State.log_inputs (s : State) (o : Obs) : (s.log o).inputs = s.inputs := rfl
@[simp] theorem State.log_target (s : State) (o : Obs) : (s.log o).target = s.target := rfl
@[simp] theorem State.log_history (s : State) (o : Obs) : (s.log o).history = o :: s.history := rfl

@[simp] theorem State.raise_cfg (s : State) (e : Nat) (g : Engine) (c : ErrCode) :
    (s.raise e g c).cfg = s.cfg := rfl
@[simp] theorem State.raise_engines (s : State) (e : Nat) (g : Engine) (c : ErrCode) :
    (s.raise e g c).engines = s.engines.set e (g.raise c) := rfl
@[simp] theorem State.raise_inReset (s : State) (e : Nat) (g : Engine) (c : ErrCode) :
    (s.raise e g c).inReset = s.inReset := rfl
@[simp] theorem State.raise_inputs (s : State) (e : Nat) (g : Engine) (c : ErrCode) :
    (s.raise e g c).inputs = s.inputs := rfl
@[simp] theorem State.raise_target (s : State) (e : Nat) (g : Engine) (c : ErrCode) :
    (s.raise e g c).target = s.target := rfl
@[simp] theorem State.raise_history (s : State) (e : Nat) (g : Engine) (c : ErrCode) :
    (s.raise e g c).history = s.history := rfl

@[simp] theorem State.logRequest_cfg (s : State) (e : Nat) (p : PortState) : (s.logRequest e p).cfg = s.cfg := by
  cases p <;> rfl
@[simp] theorem State.logRequest_engines (s : State) (e : Nat) (p : PortState) :
    (s.logRequest e p).engines = s.engines := by
  cases p <;> rfl
@[simp] theorem State.logRequest_inputs (s : State) (e : Nat) (p : PortState) :
    (s.logRequest e p).inputs = s.inputs := by
  cases p <;> rfl
@[simp] theorem State.logRequest_target (s : State) (e : Nat) (p : PortState) :
    (s.logRequest e p).target = s.target := by
  cases p <;> rfl

/-- The history after an engine's step holds at most one new entry, the request it issued. -/
theorem State.logRequest_history (s : State) (e : Nat) (p : PortState) :
    (s.logRequest e p).history = match p with
      | .waiting r => .request e r :: s.history
      | _ => s.history := by
  cases p <;> rfl

/-! ## Engine lookup -/

@[simp] theorem State.engine_setEngine_self (s : State) (e : Nat) (g g' : Engine) (h : s.engine e = some g) :
    (s.setEngine e g').engine e = some g' := by
  have hlt : e < s.engines.length := by
    simp only [State.engine] at h
    exact (List.getElem?_eq_some_iff.mp h).1
  simp [State.engine, hlt]

@[simp] theorem State.engine_setEngine_ne (s : State) (e e' : Nat) (g : Engine) (h : e ≠ e') :
    (s.setEngine e g).engine e' = s.engine e' := by
  simp [State.engine, h]

theorem State.engine_modifyEngine (s : State) (e e' : Nat) (f : Engine → Engine) :
    (s.modifyEngine e f).engine e' = if e = e' then (s.engine e').map f else s.engine e' := by
  simp only [State.engine, State.modifyEngine_engines, List.getElem?_modify]
  split <;> cases s.engines[e']? <;> rfl

@[simp] theorem State.engine_modifyEngine_self (s : State) (e : Nat) (f : Engine → Engine) :
    (s.modifyEngine e f).engine e = (s.engine e).map f := by
  simp [State.engine_modifyEngine]

@[simp] theorem State.engine_modifyEngine_ne (s : State) (e e' : Nat) (f : Engine → Engine) (h : e ≠ e') :
    (s.modifyEngine e f).engine e' = s.engine e' := by
  simp [State.engine_modifyEngine, h]

@[simp] theorem State.engine_log (s : State) (o : Obs) (e : Nat) : (s.log o).engine e = s.engine e := rfl

@[simp] theorem State.engine_logRequest (s : State) (e' : Nat) (p : PortState) (e : Nat) :
    (s.logRequest e' p).engine e = s.engine e := by
  cases p <;> rfl

@[simp] theorem State.engine_inputs (s : State) (l : List Event) (e : Nat) :
    State.engine { s with inputs := l } e = s.engine e := rfl

@[simp] theorem State.engine_target (s : State) (n : Nat) (e : Nat) :
    State.engine { s with target := n } e = s.engine e := rfl

theorem State.length_engines_of_engine (s : State) (e : Nat) (g : Engine) (h : s.engine e = some g) :
    e < s.engines.length := by
  simp only [State.engine] at h
  exact (List.getElem?_eq_some_iff.mp h).1

end Sys2Proof.Machine
end

