-- ==== Sys2Proof/Laws/Buffers.lean ====
section
/-! SUPPORT. Reading a lane buffer after a write, and the masks' bits. -/
namespace Sys2Proof.Machine

/-- A written element reads back; every other element reads as before (10_state R23). -/
theorem readLane_writeLane {α : Type} (b : Buffer α) (t t' : Tile) (i i' : Lane) (x : α) :
    readLane (writeLane b t i x) t' i' = if t = t' ∧ i = i' then some x else readLane b t' i' := by
  simp only [readLane, writeLane, Fin.getElem_fin, Vector.getElem_set, Fin.ext_iff]
  split
  · rename_i h
    simp only [h, true_and, Vector.getElem_set]
  · rename_i h
    simp [h]

@[simp] theorem readLane_fillBuffer {α : Type} (x : α) (t : Tile) (i : Lane) :
    readLane (fillBuffer x) t i = some x := by
  simp [readLane, fillBuffer]

/-- A tile written whole reads back its grid; the other tiles read as before. -/
theorem readLane_writeTile (b : Buffer Binary32) (t t' : Tile) (g : Grid) (i : Lane) :
    readLane (writeTile b t g) t' i = if t = t' then some g[i] else readLane b t' i := by
  simp only [readLane, writeTile, Fin.getElem_fin, Vector.getElem_set, Fin.ext_iff]
  split
  · simp
  · rfl

/-- `readTile` gives a grid exactly when each of the tile's elements has that value. -/
theorem readTile_eq_some (b : Buffer Binary32) (t : Tile) (g : Grid) :
    readTile b t = some g ↔ ∀ i : Lane, readLane b t i = some g[i] := by
  simp only [readTile, readLane]
  constructor
  · intro h i
    split at h
    · rename_i ha
      have hi : (b[t][i]).isSome = true := by
        have := Vector.all_eq_true.mp ha i.val i.isLt
        simpa using this
      simp only [Option.some.injEq] at h
      subst h
      obtain ⟨x, hx⟩ := Option.isSome_iff_exists.mp hi
      simp only [Fin.getElem_fin] at hx ⊢
      simp [hx]
    · simp at h
  · intro h
    have ha : b[t].all Option.isSome = true := by
      rw [Vector.all_eq_true]
      intro i hi
      have := h ⟨i, hi⟩
      simp only [Fin.getElem_fin] at this ⊢
      rw [this]; rfl
    rw [if_pos ha]
    congr 1
    ext i hi
    have := h ⟨i, hi⟩
    simp only [Fin.getElem_fin] at this ⊢
    simp [this]

theorem allWritten_readTile (b : Buffer Binary32) (t : Tile) (h : allWritten b) :
    ∃ g, readTile b t = some g := by
  refine ⟨Vector.ofFn fun i : Lane => (readLane b t i).getD 0, ?_⟩
  rw [readTile_eq_some]
  intro i
  obtain ⟨x, hx⟩ := Option.isSome_iff_exists.mp (h t i)
  simp [hx]

theorem gridOf_getElem (f : Lane → Binary32) (i : Lane) : (gridOf f)[i] = f i := by
  simp [gridOf]

theorem maskOf_getLsbD (f : Lane → Bool) (i : Lane) : (maskOf f).getLsbD i = f i := by
  simp [maskOf, BitVec.getLsbD_eq_getElem]

theorem signmask_getLsbD (g : Grid) (i : Lane) : (signmask g).getLsbD i = f32Sign g[i] :=
  maskOf_getLsbD _ i

theorem select_getElem (m : Mask) (a b : Grid) (i : Lane) :
    (select m a b)[i] = if m.getLsbD i then a[i] else b[i] :=
  gridOf_getElem _ i

/-- Two masks with the same 64 bits are equal. -/
theorem mask_ext (a b : Mask) (h : ∀ i : Lane, a.getLsbD i = b.getLsbD i) : a = b :=
  BitVec.eq_of_getLsbD_eq fun i hi => h ⟨i, hi⟩

end Sys2Proof.Machine
end

