-- ==== Sys2Proof/Laws/Host.lean ====
section
/-! SUPPORT. What the host's accesses, WAIT's repetition and the reset input can do: one lemma per shared operation. -/
namespace Sys2Proof.Machine

/-! ## Accesses -/

/-- An access is a fault outside every window, a refusal when it is no aligned word, and else what `act` does
(20_memory R60, R64). -/
theorem hostAccess_cases (s : State) (addr width : Nat) (act : Nat → Nat → Outcome) :
    (locate s.cfg addr = none ∧ hostAccess s addr width act = .fault .unmappedAddress) ∨
    ∃ e off, locate s.cfg addr = some (e, off) ∧
      ((wordAccess off width = true ∧ hostAccess s addr width act = act e off) ∨
        (wordAccess off width = false ∧
          hostAccess s addr width act = .refused (.badAccess s.cfg.busErrorOnBadAccess))) := by
  unfold hostAccess
  cases locate s.cfg addr with
  | none => exact .inl ⟨rfl, rfl⟩
  | some x =>
    refine .inr ⟨x.1, x.2, rfl, ?_⟩
    cases hw : wordAccess x.2 width
    · exact .inr ⟨rfl, by simp [hw]⟩
    · exact .inl ⟨rfl, by simp [hw]⟩

/-- A read of a located aligned word records its value and goes on as `after` says (20_memory R63). -/
theorem hostReadThen_eq (s : State) (addr e off : Nat) (g : Engine) (after : Word → State → State)
    (hl : locate s.cfg addr = some (e, off)) (ho : off % 4 = 0) (hg : s.engine e = some g) :
    hostReadThen s addr 4 after =
      .next (after (readReg s.cfg e g off) (s.log (.hostRead e off (readReg s.cfg e g off)))) := by
  simp [hostReadThen, hostAccess, hl, wordAccess, ho, hg]

/-- While reset is asserted a write of a located aligned word is recorded and changes nothing (70_reset R300). -/
theorem hostWrite_inReset (s : State) (addr e off : Nat) (v : Word) (hr : s.inReset = true)
    (hl : locate s.cfg addr = some (e, off)) (ho : off % 4 = 0) :
    hostWrite s addr 4 v = .next (s.log (.hostWrote e off v)) := by
  simp [hostWrite, hostAccess, hl, wordAccess, ho, hr]

/-! ## WAIT's repetition (30_encoding R91) -/

/-- Removing the first of some elements leaves the others. -/
theorem filter_eraseP {α : Type} (p : α → Bool) (l : List α) :
    (l.eraseP p).filter (fun x => !p x) = l.filter (fun x => !p x) := by
  induction l with
  | nil => rfl
  | cons a l ih => by_cases h : p a <;> simp [h, ih]

/-- The first of some elements, put before the list without it, keeps their order. -/
theorem find_cons_eraseP {α : Type} (p : α → Bool) (l : List α) (a : α) (h : l.find? p = some a) :
    a :: (l.eraseP p).filter p = l.filter p := by
  induction l with
  | nil => simp at h
  | cons b l ih =>
    by_cases hb : p b
    · simp only [List.find?_cons, hb, Option.some.injEq] at h
      subst h
      simp [hb]
    · simp only [List.find?_cons, hb] at h
      simp [hb, ih h]

/-- Between two polls the host makes no access: the WAIT stays its next one, and its others keep their order. -/
theorem waitBehind_isHost (s : State) (wait : Event) (rest : List Event) (hw : wait.isHost = true) :
    (waitBehind s wait rest).filter Event.isHost = wait :: rest.filter Event.isHost := by
  unfold waitBehind
  split
  · rename_i ev hf
    have hev : ev.isHost = false := by simpa using List.find?_some hf
    have he := filter_eraseP (fun ev : Event => !ev.isHost) rest
    simp only [Bool.not_not] at he
    rw [List.filter_cons_of_neg (by simp [hev]), List.filter_cons_of_pos hw, ← he]
  · split
    · rw [List.filter_cons_of_neg (by simp [Event.isHost]), List.filter_cons_of_pos hw]
    · rw [List.filter_cons_of_pos hw]

/-- Between two polls the next listed event that is no host access happens, and the others keep their order. -/
theorem waitBehind_listed (s : State) (wait ev : Event) (rest : List Event) (hw : wait.isHost = true)
    (hf : rest.find? (fun ev => !ev.isHost) = some ev) :
    (waitBehind s wait rest).head? = some ev ∧
      (waitBehind s wait rest).filter (fun ev => !ev.isHost) = rest.filter (fun ev => !ev.isHost) := by
  have hev : ev.isHost = false := by simpa using List.find?_some hf
  simp only [waitBehind, hf, List.head?_cons, true_and]
  rw [List.filter_cons_of_pos (by simp [hev]), List.filter_cons_of_neg (by simp [hw])]
  exact find_cons_eraseP _ _ _ hf

/-- Whether an engine has a step does not depend on the coming events. -/
theorem engineStep_isSome_inputs (s : State) (l : List Event) (d : Nat) :
    (engineStep { s with inputs := l } d).isSome = (engineStep s d).isSome := by
  unfold engineStep
  simp only [State.engine_inputs]
  cases s.engine d with
  | none => rfl
  | some g => simp only; split <;> simp

/-! ## The reset input (70_reset R300) -/

@[simp] theorem State.resetAll_cfg (s : State) (on : Bool) : (s.resetAll on).cfg = s.cfg := rfl
@[simp] theorem State.resetAll_engines (s : State) (on : Bool) :
    (s.resetAll on).engines = s.engines.map Engine.resetAgain := rfl
@[simp] theorem State.resetAll_inReset (s : State) (on : Bool) : (s.resetAll on).inReset = on := rfl
@[simp] theorem State.resetAll_inputs (s : State) (on : Bool) : (s.resetAll on).inputs = s.inputs := rfl
@[simp] theorem State.resetAll_target (s : State) (on : Bool) : (s.resetAll on).target = s.target := rfl
@[simp] theorem State.resetAll_history (s : State) (on : Bool) :
    (s.resetAll on).history = .reset on :: s.history := rfl

/-- Every engine of the system after reset is an engine from before, reset. -/
theorem State.engine_resetAll (s : State) (on : Bool) (e : Nat) :
    (s.resetAll on).engine e = (s.engine e).map Engine.resetAgain := by
  simp [State.engine]

/-- No engine steps while reset is asserted. -/
theorem runEngine_inReset (s : State) (e : Nat) (hr : s.inReset = true) : runEngine s e = .next s := by
  simp [runEngine, hr]

end Sys2Proof.Machine
end

