-- ==== Sys2Proof/Laws/Steps.lean ====
section
/-! SUPPORT. One lemma per shared operation: everything it can do when it answers. -/
namespace Sys2Proof.Machine

theorem need_eq_ok {α : Type} (f : Fault) (x : Option α) (a : α) : need f x = .ok a ↔ x = some a := by
  cases x <;> simp [need]

/-- `>>=` of two steps that can stop with a model fault. -/
theorem bind_eq_ok {α β : Type} (x : Except Fault α) (f : α → Except Fault β) (b : β) :
    (x >>= f) = .ok b ↔ ∃ a, x = .ok a ∧ f a = .ok b := by
  cases x <;> simp [bind, Except.bind]

/-! ## RASTER -/

/-- Entering a tile needs the RASTER snapshot, and changes only PT, SEQ, the port and the draw counter. -/
theorem enterTile_eq_ok (e : Nat) (t : Tile) (g g' : Engine) :
    enterTile e t g = .ok g' ↔ ∃ a, g.snap.rasterArgs = some a ∧
      g' = { g with
        tr := { g.tr with pt := some (tilePosition ⟨e, g.fpDraws⟩ a.pos a.scale t) }
        fpDraws := g.fpDraws + placementOps
        seq := .rEval t
        port := .waiting (.eval a.tri (tilePosition ⟨e, g.fpDraws⟩ a.pos a.scale t) a.scale) } := by
  simp only [enterTile, placeTile, issueEval, bind_eq_ok, need_eq_ok, Except.ok.injEq]
  constructor
  · rintro ⟨g1, ⟨a, ha, rfl⟩, a', ha', pt, hpt, rfl⟩
    obtain rfl : a = a' := by simpa [ha] using ha'
    obtain rfl := Option.some.inj hpt
    exact ⟨a, ha, rfl⟩
  · rintro ⟨a, ha, rfl⟩
    exact ⟨_, ⟨a, ha, rfl⟩, a, ha, _, rfl, rfl⟩

/-- The next tile, or the end of the command after tile 15. -/
theorem nextTile_eq_ok (e : Nat) (t : Tile) (g g' : Engine) :
    nextTile e t g = .ok g' ↔
      (tileAfter t = none ∧ g' = g.finish) ∨ ∃ t', tileAfter t = some t' ∧ enterTile e t' g = .ok g' := by
  unfold nextTile
  cases tileAfter t <;> simp [eq_comm]

/-- Dispatching a lane needs the snapshot, the lane and the grids, and issues its INTERP request. -/
theorem issueInterp_eq_ok (t : Tile) (g g' : Engine) :
    issueInterp t g = .ok g' ↔ ∃ a i w u v, g.snap.rasterArgs = some a ∧ g.tr.lane = some i ∧ g.tr.w = some w ∧
      g.tr.u = some u ∧ g.tr.v = some v ∧
      g' = { g with seq := .rInterp t i, port := .waiting (.interp a.tri w[i] u[i] v[i]) } := by
  simp only [issueInterp, bind_eq_ok, need_eq_ok, Except.ok.injEq]
  constructor
  · rintro ⟨a, ha, i, hi, w, hw, u, hu, v, hv, rfl⟩
    exact ⟨a, i, w, u, v, ha, hi, hw, hu, hv, rfl⟩
  · rintro ⟨a, i, w, u, v, ha, hi, hw, hu, hv, rfl⟩
    exact ⟨a, ha, i, hi, w, hw, u, hu, v, hv, rfl⟩

/-- ITER's advance: the end of the tile when CUR is 0, else the dispatch of its lowest lane. -/
theorem advanceIter_eq_ok (e : Nat) (t : Tile) (g g' : Engine) :
    advanceIter e t g = .ok g' ↔ ∃ cur, g.tr.cur = some cur ∧
      ((cur = 0 ∧ nextTile e t g = .ok g') ∨
       (cur ≠ 0 ∧ ∃ a w u v, g.snap.rasterArgs = some a ∧ g.tr.w = some w ∧ g.tr.u = some u ∧ g.tr.v = some v ∧
        g' = { g with
          tr := { g.tr with lane := some (ctz cur), cur := some (clearbit cur (ctz cur)) }
          seq := .rInterp t (ctz cur)
          port := .waiting (.interp a.tri w[ctz cur] u[ctz cur] v[ctz cur]) })) := by
  simp only [advanceIter, bind_eq_ok, need_eq_ok, iterStep]
  refine exists_congr fun cur => and_congr_right fun _ => ?_
  by_cases hc : cur = 0
  · simp [hc]
  · simp only [hc, ↓reduceIte, issueInterp_eq_ok, false_and, false_or, ne_eq, not_false_eq_true, true_and,
      Option.some.injEq]
    constructor
    · rintro ⟨a, i, w, u, v, ha, rfl, hw, hu, hv, rfl⟩
      exact ⟨a, w, u, v, ha, hw, hu, hv, rfl⟩
    · rintro ⟨a, w, u, v, ha, hw, hu, hv, rfl⟩
      exact ⟨a, _, w, u, v, ha, rfl, hw, hu, hv, rfl⟩

/-- COVER: W and MASK are written; a zero mask ends the tile, else the depth test comes next. -/
theorem coverStep_eq_ok (e : Nat) (t : Tile) (g g' : Engine) :
    coverStep e t g = .ok g' ↔ ∃ u v, g.tr.u = some u ∧ g.tr.v = some v ∧
      (let w := coverW ⟨e, g.fpDraws⟩ u v
       let g1 : Engine :=
        { g with tr := { g.tr with w := some w, mask := some (coverMask w u v) }, fpDraws := g.fpDraws + coverOps }
       (coverMask w u v = 0 ∧ nextTile e t g1 = .ok g') ∨
       (coverMask w u v ≠ 0 ∧ g' = { g1 with seq := .rDepth t })) := by
  simp only [coverStep, bind_eq_ok, need_eq_ok]
  constructor
  · rintro ⟨u, hu, v, hv, h⟩
    refine ⟨u, v, hu, hv, ?_⟩
    split at h
    · exact .inl ⟨‹_›, h⟩
    · exact .inr ⟨‹_›, (Except.ok.inj h).symm⟩
  · rintro ⟨u, v, hu, hv, h⟩
    refine ⟨u, hu, v, hv, ?_⟩
    rcases h with ⟨h0, h⟩ | ⟨h0, rfl⟩
    · rw [if_pos h0]; exact h
    · rw [if_neg h0]

/-- DEPTHTEST: Z and MASK are written, and the surviving lanes' depths; nothing else but the draw counter. -/
theorem depthTest_eq_ok (e : Nat) (t : Tile) (g g' : Engine) :
    depthTest e t g = .ok g' ↔ ∃ a w u v mask old, g.snap.rasterArgs = some a ∧ g.tr.w = some w ∧
      g.tr.u = some u ∧ g.tr.v = some v ∧ g.tr.mask = some mask ∧ readTile g.depth t = some old ∧
      (let n : DrawId := ⟨e, g.fpDraws⟩
       let z := depthZ n w u v a.z0 a.z1 a.z2
       let m := depthMask n mask old z
       g' = { g with
        tr := { g.tr with z := some z, mask := some m }
        depth := writeTile g.depth t (select m z old)
        fpDraws := g.fpDraws + depthOps }) := by
  simp only [depthTest, bind_eq_ok, need_eq_ok, Except.ok.injEq]
  constructor
  · rintro ⟨a, ha, w, hw, u, hu, v, hv, m, hm, o, ho, rfl⟩
    exact ⟨a, w, u, v, m, o, ha, hw, hu, hv, hm, ho, rfl⟩
  · rintro ⟨a, w, u, v, m, o, ha, hw, hu, hv, hm, ho, rfl⟩
    exact ⟨a, ha, w, hw, u, hu, v, hv, m, hm, o, ho, rfl⟩

/-- The R_DEPTH step: DEPTHTEST, CUR <- MASK, and ITER's first advance. -/
theorem depthStep_eq_ok (e : Nat) (t : Tile) (g g' : Engine) :
    depthStep e t g = .ok g' ↔ ∃ g1 m, depthTest e t g = .ok g1 ∧ g1.tr.mask = some m ∧
      advanceIter e t { g1 with tr := { g1.tr with cur := some m } } = .ok g' := by
  simp only [depthStep, startIter, bind_eq_ok, need_eq_ok, Except.ok.injEq]
  constructor
  · rintro ⟨g1, h1, _, ⟨m, hm, rfl⟩, h⟩
    exact ⟨g1, m, h1, hm, h⟩
  · rintro ⟨g1, m, h1, hm, h⟩
    exact ⟨g1, h1, _, ⟨m, hm, rfl⟩, h⟩

theorem takeInterp_eq_ok (t : Tile) (i : Lane) (attr : Attr) (g g' : Engine) :
    takeInterp t i attr g = .ok g' ↔ ∃ a, g.snap.rasterArgs = some a ∧
      g' = { g with
        tr := { g.tr with attr := some attr }, seq := .rFrag t i, port := .waiting (.frag a.shader attr) } := by
  simp only [takeInterp, bind_eq_ok, need_eq_ok, Except.ok.injEq]
  constructor
  · rintro ⟨a, ha, rfl⟩; exact ⟨a, ha, rfl⟩
  · rintro ⟨a, ha, rfl⟩; exact ⟨a, ha, rfl⟩

theorem takeFrag_eq_ok (t : Tile) (i : Lane) (p : Pixel) (g g' : Engine) :
    takeFrag t i p g = .ok g' ↔ ∃ a old, g.snap.rasterArgs = some a ∧ readLane g.color t i = some old ∧
      g' = { g with
        tr := { g.tr with newpix := some p }, seq := .rBlend t i, port := .waiting (.blend a.shader old p) } := by
  simp only [takeFrag, bind_eq_ok, need_eq_ok, Except.ok.injEq]
  constructor
  · rintro ⟨a, ha, o, ho, rfl⟩; exact ⟨a, o, ha, ho, rfl⟩
  · rintro ⟨a, o, ha, ho, rfl⟩; exact ⟨a, ha, o, ho, rfl⟩

/-! ## CLEAR and WRITE -/

theorem clearStep_eq_ok (pixelBits : Nat) (g g' : Engine) :
    clearStep pixelBits g = .ok g' ↔ ∃ fill, g.snap.fillPixel pixelBits = some fill ∧
      g' = { g with
        depth := fillBuffer f32One, color := fillBuffer fill, init := true, busy := false, seq := .idle,
        port := .quiet } := by
  simp only [clearStep, Engine.finish, bind_eq_ok, need_eq_ok, Except.ok.injEq]
  constructor
  · rintro ⟨p, hp, rfl⟩; exact ⟨p, hp, rfl⟩
  · rintro ⟨p, hp, rfl⟩; exact ⟨p, hp, rfl⟩

theorem issuePush_eq_ok (e : Nat) (k : Fin 1024) (g g' : Engine) :
    issuePush e k g = .ok g' ↔ ∃ ox oy n p, g.snap.writeArgs = some (ox, oy, n) ∧
      readLane g.color (writeOrder ⟨e, n⟩ k).1 (writeOrder ⟨e, n⟩ k).2 = some p ∧
      g' = { g with
        tr := { g.tr with pushk := some k }
        seq := .wPush k
        port := .waiting (.push (pushX ox (writeOrder ⟨e, n⟩ k).1 (writeOrder ⟨e, n⟩ k).2)
          (pushY oy (writeOrder ⟨e, n⟩ k).1 (writeOrder ⟨e, n⟩ k).2) p) } := by
  simp only [issuePush, bind_eq_ok, need_eq_ok, Except.ok.injEq]
  constructor
  · rintro ⟨⟨ox, oy, n⟩, h, p, hp, rfl⟩
    exact ⟨ox, oy, n, p, h, hp, rfl⟩
  · rintro ⟨ox, oy, n, p, h, hp, rfl⟩
    exact ⟨(ox, oy, n), h, p, hp, rfl⟩

theorem takeAck_eq_ok (e : Nat) (g g' : Engine) :
    takeAck e g = .ok g' ↔ ∃ k, g.tr.pushk = some k ∧
      ((∃ h : k.val + 1 < 1024, issuePush e ⟨k.val + 1, h⟩ g = .ok g') ∨ (¬ k.val + 1 < 1024 ∧ g' = g.finish)) := by
  simp only [takeAck, bind_eq_ok, need_eq_ok]
  refine exists_congr fun k => and_congr_right fun _ => ?_
  split
  · rename_i h; simp [h]
  · rename_i h; simp [h, eq_comm]

/-! ## Snapshots -/

/-- A captured register holds the parameter register's value, the others stay unwritten (10_state R36). -/
theorem capture_reg (g : Engine) (uses : List Param) (src : Option (BitVec 8)) (o : Option Nat) (r : Param)
    (h : r ∈ uses) : Snapshot.reg ⟨g.capture uses, src, o⟩ r = some (g.param r) := by
  have hany : uses.any (fun x => x.place = r.place) = true :=
    List.any_eq_true.mpr ⟨r, h, by simp⟩
  simp only [Snapshot.reg, Engine.capture, Engine.param, Fin.getElem_fin, Vector.getElem_ofFn]
  rw [if_pos hany]

/-- RASTER's snapshot holds exactly the operands the registers held. -/
theorem rasterArgs_capture (g : Engine) (src : Option (BitVec 8)) (o : Option Nat) :
    Snapshot.rasterArgs ⟨g.capture usesRaster, src, o⟩ = some g.rasterArgs := by
  have h : ∀ r ∈ usesRaster, Snapshot.reg ⟨g.capture usesRaster, src, o⟩ r = some (g.param r) :=
    fun r hr => capture_reg g usesRaster src o r hr
  simp only [usesRaster, List.mem_cons, List.not_mem_nil, or_false, forall_eq_or_imp, forall_eq] at h
  obtain ⟨h1, h2, h3, h4, h5, h6, h7, h8, h9⟩ := h
  simp only [Snapshot.rasterArgs, usesRaster, h1, h2, h3, h4, h5, h6, h7, h8, h9]
  rfl

theorem writeArgs_capture (g : Engine) (src : Option (BitVec 8)) (n : Nat) :
    Snapshot.writeArgs ⟨g.capture usesWrite, src, some n⟩ =
      some (g.param .originX, g.param .originY, n) := by
  have h : ∀ r ∈ usesWrite, Snapshot.reg ⟨g.capture usesWrite, src, some n⟩ r = some (g.param r) :=
    fun r hr => capture_reg g usesWrite src (some n) r hr
  simp only [usesWrite, List.mem_cons, List.not_mem_nil, or_false, forall_eq_or_imp, forall_eq] at h
  obtain ⟨h1, h2⟩ := h
  simp only [Snapshot.writeArgs, usesWrite, h1, h2]
  rfl

theorem mapArgs_capture (g : Engine) (src : Nat) (o : Option Nat) (hs : src < 256) :
    Snapshot.mapArgs ⟨g.capture usesMap, some (BitVec.ofNat 8 src), o⟩ = some (g.param .mapId, src) := by
  have h := capture_reg g usesMap (some (BitVec.ofNat 8 src)) o .mapId (by simp [usesMap])
  simp [Snapshot.mapArgs, h, Nat.mod_eq_of_lt hs]

theorem narrow_getLsbD (pixelBits : Nat) (p : Pixel) (j : Nat) :
    (narrow pixelBits p).getLsbD j = (decide (j < pixelBits) && p.getLsbD j) := by
  simp only [narrow, BitVec.getLsbD_setWidth]
  by_cases hj : j < 128
  · simp [hj]
  · simp [hj, BitVec.getLsbD_of_ge p j (by omega)]

/-- Bit j of a packed fill pixel is bit `j mod 32` of FILL word `j div 32` (20_memory R66). -/
theorem packFill_getLsbD (pixelBits : Nat) (f0 f1 f2 f3 : Word) (j : Nat) :
    (packFill pixelBits f0 f1 f2 f3).getLsbD j = (decide (j < pixelBits) &&
      (if j < 32 then f0.getLsbD j else if j < 64 then f1.getLsbD (j - 32)
       else if j < 96 then f2.getLsbD (j - 64) else f3.getLsbD (j - 96))) := by
  rw [packFill, narrow_getLsbD, BitVec.getLsbD_append, BitVec.getLsbD_append, BitVec.getLsbD_append]
  congr 1
  by_cases h0 : j < 32
  · simp [h0]
  · by_cases h1 : j < 64
    · simp [h0, h1, show j - 32 < 32 by omega]
    · by_cases h2 : j < 96
      · simp [h0, h1, h2, show ¬ j - 32 < 32 by omega, Nat.sub_sub]
        omega
      · simp [h0, h1, h2, show ¬ j - 32 < 32 by omega, Nat.sub_sub]
        omega

/-- Two packings agree when their used FILL words do. -/
theorem packFill_congr (pixelBits : Nat) (a0 a1 a2 a3 b0 b1 b2 b3 : Word)
    (h0 : 0 < fillWords pixelBits → a0 = b0) (h1 : 1 < fillWords pixelBits → a1 = b1)
    (h2 : 2 < fillWords pixelBits → a2 = b2) (h3 : 3 < fillWords pixelBits → a3 = b3) :
    packFill pixelBits a0 a1 a2 a3 = packFill pixelBits b0 b1 b2 b3 := by
  simp only [fillWords] at h0 h1 h2 h3
  refine BitVec.eq_of_getLsbD_eq fun j _ => ?_
  rw [packFill_getLsbD, packFill_getLsbD]
  by_cases hj : j < pixelBits
  · simp only [hj, decide_true, Bool.true_and]
    split
    · rw [h0 (by omega)]
    · split
      · rw [h1 (by omega)]
      · split
        · rw [h2 (by omega)]
        · rw [h3 (by omega)]
  · simp [hj]

/-- CLEAR's snapshot holds the fill pixel that the FILL registers held. -/
theorem fillPixel_capture (g : Engine) (pixelBits : Nat) (src : Option (BitVec 8)) (o : Option Nat) :
    Snapshot.fillPixel ⟨g.capture (usesClear pixelBits), src, o⟩ pixelBits = some (g.fillPixel pixelBits) := by
  have h : ∀ r ∈ usesClear pixelBits,
      Snapshot.reg ⟨g.capture (usesClear pixelBits), src, o⟩ r = some (g.param r) :=
    fun r hr => capture_reg g _ src o r hr
  have w : ∀ (k : Nat) (r : Param), [Param.fill0, .fill1, .fill2, .fill3][k]? = some r →
      Snapshot.fillWord ⟨g.capture (usesClear pixelBits), src, o⟩ pixelBits k r =
        some (if k < fillWords pixelBits then g.param r else 0) := by
    intro k r hk
    simp only [Snapshot.fillWord]
    split
    · rename_i hlt
      refine h r ?_
      have : (usesClear pixelBits)[k]? = some r := by
        rw [usesClear, List.getElem?_take, if_pos hlt, hk]
      exact List.mem_of_getElem? this
    · rfl
  simp only [Snapshot.fillPixel, w 0 .fill0 rfl, w 1 .fill1 rfl, w 2 .fill2 rfl, w 3 .fill3 rfl,
    bind, Option.bind_some, Engine.fillPixel, Option.some.injEq]
  exact packFill_congr _ _ _ _ _ _ _ _ _ (fun hk => if_pos hk) (fun hk => if_pos hk) (fun hk => if_pos hk)
    (fun hk => if_pos hk)

/-! ## Presenting a command word -/

/-- What presenting a word to an engine can do (60_exceptions R276). -/
theorem presentTo_cases (s : State) (checks : Engine → List (Bool × ErrCode)) (accept : Engine → Outcome)
    (g : Engine) (hg : s.engine s.target = some g) :
    (g.fault = true ∧ presentTo s checks accept = .next s) ∨
    (g.fault = false ∧ ∃ c, firstFailing ((g.occupied, .busy) :: checks g) = some c ∧
      presentTo s checks accept = .next (s.raise s.target g c)) ∨
    (g.fault = false ∧ firstFailing ((g.occupied, .busy) :: checks g) = none ∧
      presentTo s checks accept = accept g) := by
  unfold presentTo
  rw [hg]
  cases hf : g.fault
  · right
    cases hc : firstFailing ((g.occupied, .busy) :: checks g) with
    | some c => left; exact ⟨rfl, c, rfl, by simp [hf, hc]⟩
    | none => right; exact ⟨rfl, rfl, by simp [hf, hc]⟩
  · left; exact ⟨rfl, by simp [hf]⟩

/-- No check drops a word exactly when none of them holds. -/
theorem firstFailing_eq_none (l : List (Bool × ErrCode)) : firstFailing l = none ↔ ∀ x ∈ l, x.1 = false := by
  induction l with
  | nil => simp [firstFailing]
  | cons x rest ih =>
    obtain ⟨b, c⟩ := x
    cases b <;> simp [firstFailing, ih]

/-- The code of the first check that holds, with none before it. -/
theorem firstFailing_append (l l' : List (Bool × ErrCode)) (c : ErrCode) (h : ∀ x ∈ l, x.1 = false) :
    firstFailing (l ++ (true, c) :: l') = some c := by
  induction l with
  | nil => simp [firstFailing]
  | cons x rest ih =>
    obtain ⟨b, d⟩ := x
    obtain rfl : b = false := h _ List.mem_cons_self
    simpa [firstFailing] using ih fun y hy => h y (List.mem_cons_of_mem _ hy)

end Sys2Proof.Machine
end

