-- ==== Sys2Proof/Laws/Iter.lean ====
section
/-! SUPPORT. The bits ITER works on, and its position after each yield (41_tilemask R145). -/
namespace Sys2Proof.Machine

/-- `ctz` is the least set bit (40_lane_primitives R118). -/
theorem ctz_spec (m : Mask) (h : m ≠ 0) :
    m.getLsbD (ctz m) = true ∧ ∀ j : Lane, j < ctz m → m.getLsbD j = false := by
  have hne : ∃ i : Lane, m.getLsbD i = true := by
    by_contra hc
    apply h
    apply mask_ext
    intro i
    have := fun hh => hc ⟨i, hh⟩
    simpa using this
  obtain ⟨i0, hi0⟩ := hne
  unfold ctz
  cases hf : (List.finRange 64).find? fun i : Lane => m.getLsbD i.val with
  | none =>
    rw [List.find?_eq_none] at hf
    exact absurd hi0 (hf i0 (List.mem_finRange i0))
  | some i =>
    refine ⟨by have := List.find?_some hf; simpa using this, ?_⟩
    intro j hj
    rw [List.find?_eq_some_iff_getElem] at hf
    obtain ⟨_, k, hk, hki, hbefore⟩ := hf
    have hk' : k = i.val := by
      have := congrArg Fin.val hki
      simpa using this
    have := hbefore j.val (by have := Fin.lt_def.mp hj; simp only [hk']; exact this)
    simpa using this

/-- `clearbit` clears one bit and no other (40_lane_primitives R118). -/
theorem clearbit_getLsbD (m : Mask) (i j : Lane) :
    (clearbit m i).getLsbD j = (m.getLsbD j && decide (i ≠ j)) := by
  simp only [clearbit, BitVec.getLsbD_and, BitVec.getLsbD_not, BitVec.getLsbD_shiftLeft, j.isLt, decide_true,
    Bool.true_and]
  congr 1
  by_cases h : j.val < i.val
  · have : i ≠ j := by intro hh; rw [hh] at h; omega
    simp [h, this]
  · by_cases h2 : i = j
    · subst h2; simp
    · have : j.val - i.val ≠ 0 := by intro hh; apply h2; ext; omega
      simp [h, h2, BitVec.getLsbD_one, this]

/-- ITER's first yield. -/
theorem iterAt_first (m : Mask) (h : m ≠ 0) : iterAt m (clearbit m (ctz m)) (ctz m) := by
  obtain ⟨h1, h2⟩ := ctz_spec m h
  refine ⟨h1, fun j => ?_⟩
  rw [clearbit_getLsbD]
  rcases lt_trichotomy (ctz m) j with h | h | h
  · simp [h, h.ne]
  · simp [h]
  · rw [h2 j h]; simp

/-- ITER's later yields. -/
theorem iterAt_next (m c : Mask) (i : Lane) (hi : iterAt m c i) (h : c ≠ 0) :
    iterAt m (clearbit c (ctz c)) (ctz c) := by
  obtain ⟨h1, h2⟩ := ctz_spec c h
  have hc := hi.2 (ctz c)
  rw [h1] at hc
  have hc' := hc.symm
  simp only [Bool.and_eq_true, decide_eq_true_eq] at hc'
  refine ⟨hc'.1, fun j => ?_⟩
  rw [clearbit_getLsbD, hi.2 j]
  rcases lt_trichotomy (ctz c) j with h | h | h
  · simp [h, h.ne, hc'.2.trans h]
  · simp [h]
  · have := h2 j h
    rw [hi.2 j] at this
    rw [this]
    have hn : ¬ ctz c < j := lt_asymm h
    simp [hn]

end Sys2Proof.Machine
end

