-- ==== Sys2Proof/Laws/Updates.lean ====
section
/-! SUPPORT. What the shared updates leave: pixels, parameter registers, engines in the list, lanes in order. -/
namespace Sys2Proof.Machine

/-- Cutting a pixel twice is cutting it once (20_memory R66). -/
theorem narrow_idem (pb : Nat) (p : Pixel) : narrow pb (narrow pb p) = narrow pb p := by
  refine BitVec.eq_of_getLsbD_eq fun j _ => ?_
  rw [narrow_getLsbD, narrow_getLsbD]
  by_cases hj : j < pb <;> simp [hj]

/-- Cutting a response twice is cutting it once (45_interfaces R250). -/
theorem cut_idem (pb : Nat) (a : Response) : (a.cut pb).cut pb = a.cut pb := by
  cases a <;> simp [Response.cut, narrow_idem]

/-- Cutting a response keeps its type (45_interfaces R262). -/
theorem cut_answers (pb : Nat) (r : Request) (a : Response) : answers r (a.cut pb) = answers r a := by
  cases a <;> cases r <;> rfl

/-- Different parameter registers have different places (10_state R30). -/
theorem place_inj {r r' : Param} (h : r.place = r'.place) : r = r' := by
  cases r <;> cases r' <;> simp [Param.place] at h <;> rfl

/-- A written parameter register reads back, the others are unchanged (10_state R35). -/
theorem setParam_param (g : Engine) (r r' : Param) (v : Word) :
    (g.setParam r v).param r' = if r = r' then v else g.param r' := by
  simp only [Engine.param, Engine.setParam, Fin.getElem_fin, Vector.getElem_set]
  by_cases h : r = r'
  · simp [h]
  · rw [if_neg h, if_neg]; intro hh; exact h (place_inj (Fin.ext hh))

/-- A write sets its own VALID bit and no other (10_state R37). -/
theorem setParam_isValid (g : Engine) (r r' : Param) (v : Word) :
    (g.setParam r v).isValid r' = if r = r' then true else g.isValid r' := by
  simp only [Engine.isValid, Engine.setParam, Fin.getElem_fin, Vector.getElem_set]
  by_cases h : r = r'
  · simp [h]
  · rw [if_neg h, if_neg]; intro hh; exact h (place_inj (Fin.ext hh))

/-- Changing an engine is replacing it by its changed self. -/
theorem modify_eq_set {s : State} {e : Nat} {g : Engine} (hg : s.engine e = some g) (f : Engine → Engine) :
    s.modifyEngine e f = s.setEngine e (f g) := by
  simp only [State.modifyEngine, State.setEngine]
  congr 1
  apply List.ext_getElem?
  intro n
  simp only [State.engine] at hg
  by_cases hn : e = n
  · subst hn
    rw [List.getElem?_modify_eq, hg, List.getElem?_set_self (List.getElem?_eq_some_iff.mp hg).1]; rfl
  · rw [List.getElem?_set_ne hn, List.getElem?_modify]; simp [hn]

/-- Changing an engine that the state does not hold changes nothing. -/
theorem modify_none {s : State} {e : Nat} (hg : s.engine e = none) (f : Engine → Engine) :
    s.modifyEngine e f = s := by
  simp only [State.modifyEngine]
  have : s.engines.modify e f = s.engines := by
    apply List.ext_getElem?
    intro n
    simp only [State.engine] at hg
    by_cases hn : e = n
    · subst hn; rw [List.getElem?_modify_eq, hg]; rfl
    · rw [List.getElem?_modify]; simp [hn]
  rw [this]

/-- The tile after t is t + 1 (43_quad_group R190). -/
theorem tileAfter_some {t t' : Tile} (h : tileAfter t = some t') : t'.val = t.val + 1 := by
  unfold tileAfter at h; split at h
  · obtain rfl := Option.some.inj h; rfl
  · simp at h

/-- MAP's next lane is the next in number (44_commands R231). -/
theorem laneAfter_some {t t' : Tile} {i i' : Lane} (h : laneAfter t i = some (t', i')) :
    (numberOfLane t' i').val = (numberOfLane t i).val + 1 := by
  unfold laneAfter at h; split at h
  · simp only [Option.some.injEq, Prod.mk.injEq] at h
    obtain ⟨rfl, rfl⟩ := h; simp [numberOfLane]; omega
  · rename_i hi
    obtain ⟨t1, h1, h2⟩ := Option.map_eq_some_iff.mp h
    simp only [Prod.mk.injEq] at h2
    obtain ⟨rfl, rfl⟩ := h2
    have := tileAfter_some h1
    simp [numberOfLane]; omega

/-- A lane's number determines its tile and its index. -/
theorem number_inj {t t' : Tile} {i i' : Lane} (h : (numberOfLane t i).val = (numberOfLane t' i').val) :
    t = t' ∧ i = i' := by
  simp [numberOfLane] at h
  constructor <;> ext <;> omega

/-- A located address belongs to an engine of the configuration (20_memory R60). -/
theorem locateFrom_lt (k : Nat) (l : List EngineConfig) (addr e off : Nat) (h : locateFrom k l addr = some (e, off)) :
    e < k + l.length := by
  induction l generalizing k with
  | nil => simp [locateFrom] at h
  | cons c rest ih =>
    simp only [locateFrom] at h
    split at h
    · simp only [Option.some.injEq, Prod.mk.injEq] at h; simp; omega
    · have := ih _ h; simp; omega

end Sys2Proof.Machine
end

