-- ==== Sys2Proof/Laws/Keep.lean ====
section
/-! SUPPORT. How the shared operations keep what `EngineOk` and `Inv` say. -/
namespace Sys2Proof.Machine

/-! ## One engine -/

/-- What `EngineOk` says apart from the phase and the port. -/
structure Base (pb : Nat) (g : Engine) : Prop where
  codeIff : g.fault = false ↔ g.code = 0
  codeLe : g.code.toNat ≤ 8
  written : g.init = true → allWritten g.depth ∧ allWritten g.color
  colorFits : ∀ t i p, readLane g.color t i = some p → pixelFits pb p
  unsetZero : ∀ r, g.isValid r = false → g.param r = 0

/-- Every engine that is `EngineOk` has its `Base`. -/
theorem EngineOk.base {pb e g} (h : EngineOk pb e g) : Base pb g :=
  ⟨h.codeIff, h.codeLe, h.written, h.colorFits, h.unsetZero⟩

/-- `EngineOk` from its `Base` and what is said of the phase. -/
theorem ok_of {pb e g} (b : Base pb g) (hb : g.busy = true ↔ g.seq ≠ .idle)
    (hr : g.seq ≠ .idle → g.seq ≠ .clr → g.init = true)
    (hp : ∀ r a, g.port = .answered r a → a.cut pb = a) (ph : phaseOk pb e g) : EngineOk pb e g :=
  ⟨hb, b.codeIff, b.codeLe, b.written, hr, b.colorFits, hp, b.unsetZero, ph⟩

/-- The phase's conditions read the phase, the transients, the snapshot, the port and COLOR only. -/
theorem phaseOk_congr {pb e : Nat} {g g' : Engine} (h1 : g'.seq = g.seq) (h2 : g'.tr = g.tr) (h3 : g'.snap = g.snap)
    (h4 : g'.port = g.port) (h5 : g'.color = g.color) : phaseOk pb e g' ↔ phaseOk pb e g := by
  unfold phaseOk
  rw [h1, h2, h3, h4, h5]

/-- A command ends in a good state. -/
theorem finish_ok {pb e g} (b : Base pb g) : EngineOk pb e g.finish :=
  ok_of ⟨b.1, b.2, b.3, b.4, b.5⟩ (by simp) (by simp) (by simp) (by simp [phaseOk])

/-- Entering a tile never stops and leaves a good state. -/
theorem enterTile_ok {pb e g} (t : Tile) (b : Base pb g) (hi : g.init = true) (hbusy : g.busy = true)
    (ha : g.snap.rasterArgs.isSome = true) : ∃ g', enterTile e t g = .ok g' ∧ EngineOk pb e g' := by
  obtain ⟨a, ha⟩ := Option.isSome_iff_exists.mp ha
  refine ⟨_, (enterTile_eq_ok ..).mpr ⟨a, ha, rfl⟩, ?_⟩
  refine ok_of ⟨b.1, b.2, b.3, b.4, b.5⟩ (by simp [hbusy]) (fun _ _ => hi) (by simp) ?_
  exact ⟨a, _, ha, rfl, .inl rfl⟩

/-- The next tile, or the end, never stops and leaves a good state. -/
theorem nextTile_ok {pb e g} (t : Tile) (b : Base pb g) (hi : g.init = true) (hbusy : g.busy = true)
    (ha : g.snap.rasterArgs.isSome = true) : ∃ g', nextTile e t g = .ok g' ∧ EngineOk pb e g' := by
  unfold nextTile
  cases tileAfter t with
  | none => exact ⟨_, rfl, finish_ok b⟩
  | some t' => exact enterTile_ok t' b hi hbusy ha

/-- ITER's advance never stops and leaves a good state. -/
theorem advanceIter_ok {pb e g} (t : Tile) (b : Base pb g) (hi : g.init = true) (hbusy : g.busy = true)
    (ha : g.snap.rasterArgs.isSome = true) (hw : g.tr.w.isSome = true) (hu : g.tr.u.isSome = true)
    (hv : g.tr.v.isSome = true) (m c : Mask) (hm : g.tr.mask = some m) (hc : g.tr.cur = some c)
    (hit : c = m ∨ ∃ i, iterAt m c i) :
    ∃ g', advanceIter e t g = .ok g' ∧ EngineOk pb e g' := by
  by_cases h0 : c = 0
  · obtain ⟨g', hg, ok⟩ := nextTile_ok (e := e) t b hi hbusy ha
    exact ⟨g', (advanceIter_eq_ok ..).mpr ⟨c, hc, .inl ⟨h0, hg⟩⟩, ok⟩
  · obtain ⟨a, ha⟩ := Option.isSome_iff_exists.mp ha
    obtain ⟨w, hw⟩ := Option.isSome_iff_exists.mp hw
    obtain ⟨u, hu⟩ := Option.isSome_iff_exists.mp hu
    obtain ⟨v, hv⟩ := Option.isSome_iff_exists.mp hv
    refine ⟨_, (advanceIter_eq_ok ..).mpr ⟨c, hc, .inr ⟨h0, a, w, u, v, ha, hw, hu, hv, rfl⟩⟩, ?_⟩
    refine ok_of ⟨b.1, b.2, b.3, b.4, b.5⟩ (by simp [hbusy]) (fun _ _ => hi) (by simp) ?_
    refine ⟨⟨by simp [hu], by simp [hv], by simp [hw], rfl, m, _, hm, rfl, ?_⟩, a, w, u, v, ha, hw, hu, hv, .inl rfl⟩
    rcases hit with rfl | ⟨i, hi⟩
    · exact iterAt_first _ h0
    · exact iterAt_next _ _ i hi h0

/-- Dropping a word leaves a good state (60_exceptions R275). -/
theorem raise_ok {pb e g} (h : EngineOk pb e g) (c : ErrCode) : EngineOk pb e (g.raise c) := by
  refine ⟨h.busyIff, ?_, ?_, h.written, h.runsInit, h.colorFits, h.portFits, h.unsetZero,
    (phaseOk_congr rfl rfl rfl rfl rfl).mpr h.phase⟩
  · cases c <;> simp [ErrCode.bits]
  · cases c <;> simp [ErrCode.bits]

/-- The acknowledge leaves a good state (60_exceptions R280). -/
theorem acknowledge_ok {pb e g} (h : EngineOk pb e g) : EngineOk pb e g.acknowledge := by
  refine ⟨h.busyIff, ?_, ?_, h.written, h.runsInit, h.colorFits, h.portFits, h.unsetZero,
    (phaseOk_congr rfl rfl rfl rfl rfl).mpr h.phase⟩ <;> simp

/-- A parameter write leaves a good state (10_state R35). -/
theorem setParam_ok {pb e g} (h : EngineOk pb e g) (r : Param) (v : Word) : EngineOk pb e (g.setParam r v) := by
  refine ⟨h.busyIff, h.codeIff, h.codeLe, h.written, h.runsInit, h.colorFits, h.portFits, ?_,
    (phaseOk_congr rfl rfl rfl rfl rfl).mpr h.phase⟩
  intro r' hv
  rw [setParam_isValid] at hv
  rw [setParam_param]
  split at hv
  · simp at hv
  · rename_i hne; rw [if_neg hne]; exact h.unsetZero r' hv

/-! ## The system -/

/-- `Inv` reads the configuration, the engines and the reset input only; a released reset input asks for less. -/
theorem inv_congr {s s' : State} (hc : s'.cfg = s.cfg) (he : s'.engines = s.engines)
    (hr : s'.inReset = true → s.inReset = true) (h : Inv s) : Inv s' := by
  have hE : ∀ e, s'.engine e = s.engine e := fun e => by simp [State.engine, he]
  have hM : ∀ d src m t i, mapsFrom s' d src m t i ↔ mapsFrom s d src m t i := by
    intro d src m t i; simp [mapsFrom, hE]
  refine ⟨hc ▸ h.config, by rw [he, hc]; exact h.count, ?_, ?_, ?_, ?_,
    fun hh e g hg => h.held (hr hh) e g (hE e ▸ hg)⟩
  · intro e g hg; rw [hc]; exact h.each e g (hE e ▸ hg)
  · intro d src m t i hm
    have := h.source d src m t i ((hM ..).mp hm)
    simpa [hc, hE] using this
  · intro e g hg hl
    have := h.lockedIdle e g (hE e ▸ hg) hl
    simpa [hM] using this
  · intro d d' src m m' t t' i i' h1 h2
    exact h.oneMap d d' src m m' t t' i i' ((hM ..).mp h1) ((hM ..).mp h2)

/-- Replacing one engine, with reset released, keeps `Inv` when the engine is good and MAP's ties to it stay. -/
theorem inv_update {s : State} {e : Nat} {g g' : Engine} (h : Inv s) (hg : s.engine e = some g)
    (ok : EngineOk (s.cfg.pixelBits e) e g')
    (h1 : ∀ t i, g.seq = .mMap t i → g'.seq = .mMap t i ∧ g'.snap = g.snap ∧ g'.color = g.color)
    (h2 : ∀ t i, g'.seq = .mMap t i → g.seq = .mMap t i)
    (hl : g'.locked = g.locked)
    (hs : g.locked = true → g'.color = g.color ∧ g'.init = g.init ∧ g'.seq = g.seq)
    (hr : s.inReset = false) : Inv (s.setEngine e g') := by
  have hself : (s.setEngine e g').engine e = some g' := State.engine_setEngine_self _ _ _ _ hg
  have hne : ∀ d, e ≠ d → (s.setEngine e g').engine d = s.engine d := fun d hd => State.engine_setEngine_ne _ _ _ _ hd
  have hM : ∀ d src m t i, mapsFrom (s.setEngine e g') d src m t i ↔ mapsFrom s d src m t i := by
    intro d src m t i
    by_cases hd : e = d
    · subst hd
      simp only [mapsFrom, hself, hg, Option.some.injEq, exists_eq_left']
      constructor
      · rintro ⟨ha, hb⟩
        have := h2 t i ha
        exact ⟨this, (h1 t i this).2.1 ▸ hb⟩
      · rintro ⟨ha, hb⟩
        exact ⟨(h1 t i ha).1, (h1 t i ha).2.1.symm ▸ hb⟩
    · simp [mapsFrom, hne d hd]
  refine ⟨h.config, by simpa using h.count, ?_, ?_, ?_, ?_, fun hh => by simp [hr] at hh⟩
  · intro d gd hgd
    by_cases hd : e = d
    · subst hd; rw [hself] at hgd; obtain rfl := Option.some.inj hgd; exact ok
    · exact h.each d gd (by rwa [hne d hd] at hgd)
  · intro d src m t i hm
    have hm0 := (hM ..).mp hm
    obtain ⟨hsd, hsig, gd, a, hgd, ha, hlk, hin, hmb⟩ := h.source d src m t i hm0
    refine ⟨hsd, hsig, ?_⟩
    -- the destination
    have hdest : ∃ gd', (s.setEngine e g').engine d = some gd' ∧ gd'.color = gd.color := by
      by_cases hd : e = d
      · subst hd
        rw [hg] at hgd; obtain rfl := Option.some.inj hgd
        obtain ⟨gg, hgg, hsq, _⟩ := hm0
        rw [hg] at hgg; obtain rfl := Option.some.inj hgg
        exact ⟨g', hself, (h1 t i hsq).2.2⟩
      · exact ⟨gd, by rw [hne d hd]; exact hgd, rfl⟩
    have hsrc : ∃ a', (s.setEngine e g').engine src = some a' ∧ a'.color = a.color ∧
        a'.locked = true ∧ a'.init = true := by
      by_cases hd : e = src
      · subst hd
        rw [hg] at ha; obtain rfl := Option.some.inj ha
        obtain ⟨x1, x2, _⟩ := hs hlk
        exact ⟨g', hself, x1, hl.trans hlk, x2.trans hin⟩
      · exact ⟨a, by rw [hne src hd]; exact ha, rfl, hlk, hin⟩
    obtain ⟨gd', hgd', hcd⟩ := hdest
    obtain ⟨a', ha', hca, hla, hia⟩ := hsrc
    exact ⟨gd', a', hgd', ha', hla, hia, by rw [hca, hcd]; exact hmb⟩
  · intro d gd hgd hlk
    by_cases hd : e = d
    · subst hd; rw [hself] at hgd; obtain rfl := Option.some.inj hgd
      obtain ⟨hi, hx⟩ := h.lockedIdle e g hg (hl ▸ hlk)
      refine ⟨(hs (hl ▸ hlk)).2.2.trans hi, ?_⟩
      simpa [hM] using hx
    · rw [hne d hd] at hgd
      simpa [hM] using h.lockedIdle d gd hgd hlk
  · intro d d' src m m' t t' i i' a1 a2
    exact h.oneMap d d' src m m' t t' i i' ((hM ..).mp a1) ((hM ..).mp a2)

/-- A running engine is not LOCKED. -/
theorem notLocked_of_running {s : State} (h : Inv s) {e g} (hg : s.engine e = some g) (hs : g.seq ≠ .idle) :
    g.locked = false := by
  cases hl : g.locked
  · rfl
  · exact absurd (h.lockedIdle e g hg hl).1 hs

/-- A system of idle, unlocked, good engines meets `Inv`. -/
theorem inv_allIdle {s : State} (hc : s.cfg.Wf) (hn : s.engines.length = s.cfg.numEngines)
    (hall : ∀ e g, s.engine e = some g → g.seq = .idle ∧ g.locked = false ∧ EngineOk (s.cfg.pixelBits e) e g)
    (hr : s.inReset = true → ∀ e g, s.engine e = some g → resetValues g) : Inv s := by
  have hM : ∀ d src m t i, ¬ mapsFrom s d src m t i := by
    rintro d src m t i ⟨g, hg, hs, _⟩
    rw [(hall d g hg).1] at hs; simp at hs
  exact ⟨hc, hn, fun e g hg => (hall e g hg).2.2, fun d src m t i h => (hM _ _ _ _ _ h).elim,
    fun e g hg hl => by rw [(hall e g hg).2.1] at hl; simp at hl,
    fun d d' src m m' t t' i i' h => (hM _ _ _ _ _ h).elim, hr⟩

end Sys2Proof.Machine
end

