-- ==== Sys2Proof/Laws/PerInstr.lean ====
section
/-! SUPPORT. Statements about every instruction as syntax, one lemma per constructor. -/
namespace Sys2Proof.Laws.MaskMatch

/-- The word of a well-formed instruction is in its own row of 30_encoding R85's table, with both reserved
fields zero (30_encoding R80). -/
def Statement (i : Instr) : Prop :=
  i.wellFormed = true → encode i &&& (maskMatch i).1 = (maskMatch i).2 ∧
    res0Field (encode i) = 0 ∧ res1Field (encode i) = 0

theorem clear : Statement .clear := fun _ => by decide

theorem raster : Statement .raster := fun _ => by decide

theorem write : Statement .write := fun _ => by decide

/-- The word of MAP, for every value of its SRC field. -/
theorem map_word (b : BitVec 8) :
    formatC 4 b &&& 0xFFFF00FF = 4 ∧ res0Field (formatC 4 b) = 0 ∧ res1Field (formatC 4 b) = 0 := by
  revert b; decide

theorem map (src : Nat) : Statement (.map src) := fun _ => map_word _

end Sys2Proof.Laws.MaskMatch
end

