-- ==== Sys2Proof/Tests/Slice0.lean ====
section
/-! SUPPORT. The author's tests: well-formedness, decoding, the spec's vectors, one step of each command, and for every
statement with hypotheses a state that meets them. -/
namespace Sys2Proof.Machine

/-! ## Well-formedness: each check refuses an ill-formed term -/

theorem test_map_source_256_refused : (Instr.map 256).wellFormed = false := by decide

theorem test_srcEncodable_refuses_256 : srcEncodable 256 = false := by decide

theorem test_map_source_255_wellFormed : (Instr.map 255).wellFormed = true := by decide

/-! ## Decoding, each word written out from 30_encoding R80: RES1, SRC, RES0, OPC -/

theorem test_decode_clear : decode 0b0000000000000000_00000000_0000_0001 = .ok .clear := by decide

theorem test_decode_raster : decode 0b0000000000000000_00000000_0000_0010 = .ok .raster := by decide

theorem test_decode_write : decode 0b0000000000000000_00000000_0000_0011 = .ok .write := by decide

theorem test_decode_map : decode 0b0000000000000000_10100101_0000_0100 = .ok (.map 0xA5) := by decide

/-- 30_encoding R86, one word for each item. -/
theorem test_decode_illegal : decode 0 = .error .reservedOpcode ∧ decode 0x5 = .error .reservedOpcode ∧
    decode 0xF = .error .reservedOpcode ∧ decode 0x11 = .error .reservedBits ∧
    decode 0x00010002 = .error .reservedBits ∧ decode 0x80000004 = .error .reservedBits ∧
    decode 0x101 = .error .srcNotZero ∧ decode 0x8003 = .error .srcNotZero := by decide

/-- The window is little-endian (20_memory R65). -/
theorem test_decodeBytes_map_1 : decodeBytes [0x04, 0x01, 0x00, 0x00] = .ok (.map 1, []) := by decide

theorem test_decodeBytes_truncated : decodeBytes [0x01, 0x00, 0x00] = .error .truncated := by decide

theorem test_decodeTableWord : decodeTableWord 32 0xFF04 = some (.map 255) ∧ decodeTableWord 32 0 = none := by decide

/-! ## Arithmetic and lane vectors of 95_test_vectors -/

def draw0 : DrawId := ⟨0, 0⟩

/-- 95_test_vectors section 2, rows 1 to 18: U, V, W, the COVER bit. -/
def coverRows : List (Word × Word × Word × Bool) :=
  [(0x3E800000, 0x3E800000, 0x3F000000, true), (0x3DCCCCCD, 0x3E4CCCCD, 0x3F333333, true),
   (0x3F000000, 0x3F000000, 0x00000000, true), (0x3F800000, 0x00000000, 0x00000000, true),
   (0x3F800000, 0x80000000, 0x00000000, false), (0x3F400000, 0x3F000000, 0xBE800000, false),
   (0x3F19999A, 0x3ECCCCCD, 0xB3000000, false), (0x3F333333, 0x3E99999A, 0x00000000, true),
   (0x3E99999A, 0x3F333333, 0x00000000, true), (0x3EAAAAAB, 0x3EAAAAAB, 0x3EAAAAA9, true),
   (0xBF800000, 0x3F000000, 0x3FC00000, false), (0x00000000, 0x00000000, 0x3F800000, true),
   (0x00000001, 0x00000000, 0x3F800000, true), (0x40000000, 0xBF800000, 0x00000000, false),
   (0x3F666666, 0x3DCCCCCD, 0x32C00000, true), (0x3E4CCCCD, 0x3F4CCCCD, 0x00000000, true),
   (0x40A00000, 0x00000000, 0xC0800000, false), (0x7F800000, 0x00000000, 0xFF800000, false)]

def coverRowHolds (r : Word × Word × Word × Bool) : Bool :=
  fsub draw0 (fsub draw0 f32One r.1) r.2.1 == r.2.2.1 &&
    (!(f32Sign r.2.2.1 || f32Sign r.1 || f32Sign r.2.1)) == r.2.2.2

theorem test_cover_vectors : coverRows.all coverRowHolds = true := by decide

/-- 95_test_vectors section 3: stored depth, W, U, V, Z0, Z1, Z2, and the Z, F and N that follow. -/
def depthRows : List (List Word) :=
  [[0x3F000000, 0x3F000000, 0x3E800000, 0x3E800000, 0x3E4CCCCD, 0x3E4CCCCD, 0x3E4CCCCD,
    0x3E4CCCCD, 0x3E99999A, 0x3F99999A],
   [0x3E4CCCCD, 0x3F000000, 0x3E800000, 0x3E800000, 0x3F000000, 0x3F000000, 0x3F000000,
    0x3F000000, 0xBE99999A, 0x3FC00000],
   [0x3F800000, 0x3F000000, 0x3E800000, 0x3E800000, 0xBFC00000, 0xBF000000, 0xBF800000,
    0xBF900000, 0x40080000, 0xBE000000],
   [0x3F800000, 0x3EAAAAA9, 0x3EAAAAAB, 0x3EAAAAAB, 0x3E4CCCCD, 0x3E4CCCCD, 0x3E4CCCCD,
    0x3E4CCCCC, 0x3F4CCCCD, 0x3F99999A],
   [0x3F800000, 0x3F800000, 0x00000000, 0x00000000, 0xBF800001, 0x00000000, 0x00000000,
    0xBF800001, 0x40000000, 0xB4000000],
   [0x80000000, 0x3F800000, 0x00000000, 0x00000000, 0x00000000, 0x00000000, 0x00000000,
    0x00000000, 0x80000000, 0x3F800000],
   [0x7F800000, 0x3F000000, 0x3E800000, 0x3E800000, 0x3F000000, 0x3F000000, 0x3F000000,
    0x3F000000, 0x7F800000, 0x3FC00000],
   [0x3F800000, 0x3F800000, 0x00000000, 0x00000000, 0xFF800000, 0x00000000, 0x00000000,
    0xFF800000, 0x7F800000, 0xFF800000]]

def depthRowHolds : List Word → Bool
  | [old, w, u, v, z0, z1, z2, z, f, n] =>
    fadd draw0 (fadd draw0 (fmul draw0 w z0) (fmul draw0 u z1)) (fmul draw0 v z2) == z &&
      fsub draw0 old z == f && fadd draw0 z f32One == n
  | _ => false

theorem test_depth_vectors : depthRows.all depthRowHolds = true := by decide

/-- 41_tilemask R148. -/
theorem test_iter_vectors : iterYields 65 0 = [] ∧ iterYields 65 0x8000000000000001 = [0, 63] ∧
    iterYields 65 0x0000000000000F00 = [8, 9, 10, 11] ∧
    iterYields 65 0x0101010101010101 = [0, 8, 16, 24, 32, 40, 48, 56] := by decide

/-- 43_quad_group R195. -/
theorem test_placement_vectors :
    tilePosition draw0 ⟨0x3F000000, 0x3F000000⟩ ⟨0x3F800000, 0x3F800000⟩ 5 = ⟨0x41C40000, 0x3F000000⟩ ∧
    tilePosition draw0 ⟨0xBF800000, 0xBF800000⟩ ⟨0x3D800000, 0x3D800000⟩ 12 = ⟨0, 0⟩ ∧
    tilePosition draw0 ⟨0x3DCCCCCD, 0x80000000⟩ ⟨0x3DCCCCCD, 0x3DCCCCCD⟩ 0 = ⟨0x3DCCCCCD, 0⟩ ∧
    (tilePosition draw0 ⟨0x3DCCCCCD, 0x80000000⟩ ⟨0x3DCCCCCD, 0x3DCCCCCD⟩ 1).x = 0x3F666667 := by decide

/-- 40_lane_primitives R115, the table's TX and TY columns. -/
theorem test_tile_origins : (List.finRange 16).map (fun t : Tile => (tileX t, tileY t)) =
    [(0, 0), (8, 0), (0, 8), (8, 8), (16, 0), (24, 0), (16, 8), (24, 8), (0, 16), (8, 16), (0, 24), (8, 24),
     (16, 16), (24, 16), (16, 24), (24, 24)] := by decide

/-- 44_commands R211: with PIXEL_BITS = 8 the fill 0xABCDEF12 is the pixel 0x12. -/
theorem test_fill_packing : packFill 8 0xABCDEF12 0 0 0 = 0x12 ∧
    packFill 128 1 2 3 4 = 0x00000004000000030000000200000001 := by decide

/-- 95_test_vectors section 10.3, line 15. -/
theorem test_id_of_engine_1 : idWord 1 8 = 0x01080208 := by decide

/-- 30_encoding R90: decimal floats. -/
theorem test_asm_floats : f32OfDecimal false 2 1 = 0x3E4CCCCD ∧ f32OfDecimal true 15 1 = 0xBFC00000 ∧
    f32OfDecimal false 5 1 = 0x3F000000 := by decide

/-- A line of 95_test_vectors section 10's form, with its engine mark and a comment, and one whose mnemonic is not
upper case (30_encoding R89, R91). -/
theorem test_read_line : readLine Platform.vectors "1: MAPWITH 3, 0 ; to bytes".toList =
      some (some (1, .mapwith (.unsigned 3) 0)) ∧
    readLine Platform.vectors "map 1".toList = none := by decide

/-- 95_test_vectors section 10: `WR Z0, 0.2f` is MemWrite(0x20, 4, 0x3E4CCCCD); 30_encoding R93: `MAP 255`. -/
theorem test_read_text : readText Platform.vectors ["WR Z0, 0.2f".toList, "MAP 255".toList, "2: RD STATUS".toList] =
    some [.hostWrite 0x20 4 0x3E4CCCCD, .hostWrite 0x00 4 0x0000FF04, .hostRead 0x204 4] := by decide

/-! ## The machine as step runs it, right after reset (60_exceptions R279) -/

/-- What STATUS of engine 0 reads after one step. -/
def statusAfter (r : Outcome) : Option Word :=
  match r with
  | .next s => (s.engine 0).map Engine.status
  | _ => none

theorem test_clear_after_reset_is_unset : statusAfter (step (State.reset.withFetchWord 32 1)) = some 0x42 := by decide

theorem test_raster_after_reset_is_unset : statusAfter (step (State.reset.withFetchWord 32 2)) = some 0x42 := by decide

theorem test_map_self_is_badgroup : statusAfter (step (State.reset.withFetchWord 32 4)) = some 0x32 := by decide

theorem test_zero_word_is_illegal : statusAfter (step (State.reset.withFetchWord 32 0)) = some 0x12 := by decide

/-! ## Small states -/

/-- A cleared engine whose parameter registers are all written: 0, but MAP_ID = 3. -/
def ready : Engine :=
  { Engine.reset with
    depth := fillBuffer f32One, color := fillBuffer 0, init := true
    params := (Vector.replicate 16 0).set 9 3, valid := Vector.replicate 16 true }

/-- Three such engines on the configuration of reset, with some coming events and a target. -/
def sysWith (g0 g1 : Engine) (target : Nat) (inputs : List Event) : State :=
  { State.reset with engines := [g0, g1, ready], target := target, inputs := inputs }

def sys (target : Nat) (inputs : List Event) : State := sysWith ready ready target inputs

theorem ready_written : allWritten ready.depth ∧ allWritten ready.color :=
  ⟨fun t i => by simp [ready], fun t i => by simp [ready]⟩

theorem narrow_zero (pixelBits : Nat) : narrow pixelBits 0 = 0 := by simp [narrow]

theorem ready_base (pixelBits : Nat) : Base pixelBits ready := by
  refine ⟨by simp [ready, Engine.reset], by simp [ready, Engine.reset], fun _ => ready_written, ?_, ?_⟩
  · intro t i p hp
    simp only [ready, readLane_fillBuffer, Option.some.injEq] at hp
    subst hp; exact narrow_zero _
  · intro r hr
    have : ∀ r, ready.isValid r = true := by intro r; cases r <;> decide
    rw [this r] at hr; simp at hr

theorem ready_ok (pixelBits e : Nat) : EngineOk pixelBits e ready := finish_ok (ready_base pixelBits)

theorem sys_inv (target : Nat) (inputs : List Event) : Inv (sys target inputs) := by
  refine inv_allIdle (by decide : Platform.vectors.Wf) rfl ?_ (by simp [sys, sysWith, State.reset, State.resetOn])
  intro e g hg
  have : g = ready := by
    match e, hg with
    | 0, hg => exact (Option.some.inj hg).symm
    | 1, hg => exact (Option.some.inj hg).symm
    | 2, hg => exact (Option.some.inj hg).symm
    | n + 3, hg => simp [State.engine, sys, sysWith] at hg
  subst this
  exact ⟨rfl, rfl, ready_ok _ _⟩

/-! ## One step of each command and each kind of access -/

/-- BUSY is set by CLEAR's acceptance and INIT by its one step (44_commands R210). -/
theorem test_clear_runs : statusAfter (execClear (sysWith { ready with init := false } ready 0 [])) = some 0x1 ∧
    statusAfter (.next (sysWith ((clearStep 32 (startClear 32 { ready with init := false })).toOption.getD ready)
      ready 0 [])) = some 0x4 := by decide

/-- RASTER's acceptance issues tile 0's EVAL request (44_commands R215). -/
theorem test_raster_request : ((startRaster 0 ready).toOption.map Engine.port) =
    some (.waiting (.eval 0 ⟨0, 0⟩ ⟨0, 0⟩)) := by decide

/-- WRITE with an origin of 0xFFFFFFE1 is dropped with E_COORD (44_commands R226). -/
theorem test_write_coord_dropped :
    statusAfter (execWrite (sysWith (ready.setParam .originX 0xFFFFFFE1) ready 0 [])) = some 0x86 := by decide

/-- MAP from a busy engine: E_TYPE comes first where the widths differ, else E_SRC_BUSY (60_exceptions R276). -/
theorem test_map_source_busy :
    statusAfter (execMap 1 (sysWith (ready.setParam .mapId 4) { ready with busy := true } 0 [])) = some 0x66 ∧
    statusAfter (execMap 2 { sysWith (ready.setParam .mapId 4) ready 0 [] with
      engines := [ready.setParam .mapId 4, ready, { ready with busy := true }] }) = some 0x76 := by decide

/-- MAP's selector 3 takes engine 0's 32-bit pixels to engine 1's 8-bit ones (95_test_vectors section 10.3). -/
theorem test_map_accepted : statusAfter (execMap 0 (sys 1 [])) = some 0xC := by decide

theorem test_acknowledge : statusAfter (step (sysWith (ready.raise .busy) ready 0 [.hostWrite 0x008 4 1])) =
    some 0x4 := by decide

/-- A WAIT that reads BUSY 1 lets the listed agent move and stays before the host's next access; one that reads BUSY 0
is over (30_encoding R91). -/
theorem test_wait : (∀ s', step (sysWith { ready with busy := true } ready 0 [.hostWait 4, .hostRead 0 4, .engine 1]) =
      .next s' → s'.inputs = [.engine 1, .hostWait 4, .hostRead 0 4]) ∧
    ∀ s', step (sys 0 [.hostWait 4, .hostRead 0 4]) = .next s' → s'.inputs = [.hostRead 0 4] := by
  constructor <;> · rintro s' ⟨⟩; rfl

/-- While reset is asserted a command word starts nothing; the word after its release is presented (70_reset R300). -/
theorem test_asserted_reset : statusAfter (step { sys 0 [.hostWrite 0 4 1] with inReset := true }) = some 0x4 ∧
    statusAfter (step (sys 0 [.reset true])) = some 0x0 := by decide

theorem test_bad_access : step (sys 0 [.hostRead 0x006 4]) = .refused (.badAccess false) := by rfl

/-! ## Witnesses: for each statement with hypotheses, a state and operands that meet them -/

theorem witness_DecodeOfEncode : Instr.clear.wellFormed = true ∧ (Instr.map 0).wellFormed = true ∧
    (Instr.map 255).wellFormed = true := by decide

theorem witness_EncodeOfDecode : decode 0x0000FF04 = .ok (.map 255) := by decide

theorem witness_IllegalWords : (∃ r, decode 0 = .error r) ∧ (sys 1 []).engine 1 = some ready ∧
    ready.fault = false ∧ ready.busy = false ∧ ready.locked = false := ⟨⟨_, rfl⟩, rfl, rfl, rfl, rfl⟩

theorem witness_StepRunsDecoded : ∀ w ∈ [(0x1 : Word), 0x0],
    (sys 0 [.hostWrite 0x100 4 w]).inReset = false ∧ (sys 0 [.hostWrite 0x100 4 w]).cfg.Wf ∧
    1 < (sys 0 [.hostWrite 0x100 4 w]).cfg.numEngines ∧
    (sys 0 [.hostWrite 0x100 4 w]).inputs =
      .hostWrite ((sys 0 [.hostWrite 0x100 4 w]).cfg.base 1) 4 w :: [] :=
  fun _ _ => ⟨rfl, (by decide : Platform.vectors.Wf), (by decide : 1 < Platform.vectors.numEngines), rfl⟩

theorem witness_StepRunsDecoded_words : decode 0x1 = .ok .clear ∧ ∃ r, decode 0x0 = .error r := ⟨rfl, _, rfl⟩

/-- A command accepted, a word dropped, and an engine whose FAULT silences every word. -/
theorem witness_AcceptanceProcedure : Inv (sys 0 []) ∧ (sys 0 []).engine 1 = some ready ∧
    verdict (sys 0 []) 1 ready 0x004 = .accepted (.map 0) ∧ verdict (sys 0 []) 1 ready 0x001 = .accepted .clear ∧
    verdict (sys 0 []) 1 ready 0x002 = .accepted .raster ∧ verdict (sys 0 []) 1 ready 0x003 = .accepted .write ∧
    verdict (sys 0 []) 1 ready 0x104 = .dropped 0x3 ∧ verdict (sys 0 []) 1 (ready.raise .busy) 0x1 = .silent :=
  ⟨sys_inv _ _, rfl, by decide, by decide, by decide, by decide, by decide, by decide⟩

theorem witness_StickyFault : (∃ s', step (sysWith (ready.raise .busy) ready 0 []) = .next s' ∧
      s'.engine 0 = some (ready.raise .busy)) ∧
    (∃ s', step (sysWith (ready.raise .busy) ready 0 [.reset true]) = .next s' ∧ ∃ g', s'.engine 0 = some g') ∧
    (∃ s', step (sysWith (ready.raise .busy) ready 0 [.hostWrite 0x8 4 1]) = .next s' ∧
      ∃ g', s'.engine 0 = some g') ∧
    (sysWith (ready.raise .busy) ready 0 []).engine 0 = some (ready.raise .busy) ∧
    (ready.raise .busy).fault = true :=
  ⟨⟨_, rfl, rfl⟩, ⟨_, rfl, _, rfl⟩, ⟨_, rfl, _, rfl⟩, rfl, rfl⟩

/-- An engine at CLR, its first CLEAR since reset just accepted. -/
def clearing (pixelBits : Nat) : Engine := startClear pixelBits Engine.reset

theorem clearing_step (pixelBits : Nat) : ∃ g', clearStep pixelBits (clearing pixelBits) = .ok g' ∧
    g'.depth = fillBuffer f32One ∧ g'.init = true ∧ ∃ p, g'.color = fillBuffer p :=
  ⟨_, (clearStep_eq_ok ..).mpr ⟨_, fillPixel_capture Engine.reset pixelBits none none, rfl⟩, rfl, rfl, _, rfl⟩

theorem clearing_engineStep (inputs : List Event) : ∃ s', engineStep (sysWith (clearing 32) ready 0 inputs) 0 =
    some (.next s') := by
  obtain ⟨g', hg, _⟩ := clearing_step 32
  refine ⟨((sysWith (clearing 32) ready 0 inputs).setEngine 0 g').logRequest 0 g'.port, ?_⟩
  show Option.map _ (some (clearStep 32 (clearing 32))) = _
  rw [hg]; rfl

theorem witness_DropIsPrecise : (sysWith (clearing 32) ready 0 []).engine 1 = some ready ∧
    ∃ s', engineStep (sysWith (clearing 32) ready 0 []) 0 = some (.next s') := ⟨rfl, clearing_engineStep []⟩

theorem witness_Acknowledge : ∀ v ∈ [(0 : Word), 1, 0xFFFFFFFF],
    (sys 0 [.hostWrite 0x108 4 v]).engine 1 = some ready ∧ (sys 0 [.hostWrite 0x108 4 v]).inReset = false ∧
    locate (sys 0 [.hostWrite 0x108 4 v]).cfg 0x108 = some (1, 8) ∧
    (sys 0 [.hostWrite 0x108 4 v]).inputs = .hostWrite 0x108 4 v :: [] ∧ EngineOk 8 1 ready :=
  fun _ _ => ⟨rfl, rfl, rfl, rfl, ready_ok _ _⟩

/-- The hypotheses of ClearAccepted, ClearCompletes and ClearIdempotent. -/
theorem witness_ClearAccepted : (sys 1 []).engine (sys 1 []).target = some ready ∧ ready.fault = false ∧
    ready.busy = false ∧ ready.locked = false ∧
    ∀ r ∈ usesClear ((sys 1 []).cfg.pixelBits (sys 1 []).target), ready.isValid r = true :=
  ⟨rfl, rfl, rfl, rfl, by decide⟩

/-- The hypotheses of RasterAccepted, and with the agent those of RasterOutsideBlock. -/
theorem witness_RasterAccepted : (sys 1 []).engine (sys 1 []).target = some ready ∧ ready.fault = false ∧
    ready.busy = false ∧ ready.locked = false ∧ (∀ r ∈ usesRaster, ready.isValid r = true) ∧ ready.init = true :=
  ⟨rfl, rfl, rfl, rfl, by decide, rfl⟩

/-- An agent that rejects every lane of every tile, by U's sign or by V's as the history's length is even or odd. -/
def rejecting (h : List Obs) (_ : Request) : Response :=
  if h.length % 2 = 0 then .eval (broadcast 0xBF800000) (broadcast 0) else .eval (broadcast 0) (broadcast 0xBF800000)

/-- RasterOutsideBlock's hypothesis on the agent, at every history, request and draw; the others are RasterAccepted's. -/
theorem witness_RasterOutsideBlock : ∀ (h : List Obs) (r : Request) (n : DrawId),
    ∃ u v, rejecting h r = .eval u v ∧ coverMask (coverW n u v) u v = 0 := by
  intro h r n
  have hb : ∀ (c : Binary32) (i : Lane), (broadcast c)[i] = c := fun c i => gridOf_getElem _ i
  have hs : f32Sign (0xBF800000 : Binary32) = true := by decide
  unfold rejecting
  split
  all_goals
    refine ⟨_, _, rfl, ?_⟩
    apply mask_ext
    intro i
    simp only [coverMask, BitVec.getLsbD_not, BitVec.getLsbD_or, signmask_getLsbD, hb, hs]
    simp

/-- The hypotheses of WriteAccepted and WriteWhole, with the origin at the two ends of its range. -/
theorem witness_WriteAccepted : ∀ x ∈ [(0 : Word), 0xFFFFFFE0],
    let g := (ready.setParam .originX x).setParam .originY x
    (sysWith g ready 0 []).engine (sysWith g ready 0 []).target = some g ∧ g.fault = false ∧ g.busy = false ∧
    g.locked = false ∧ g.isValid .originX = true ∧ g.isValid .originY = true ∧ g.init = true ∧
    (g.param .originX).toNat ≤ 0xFFFFFFE0 ∧ (g.param .originY).toNat ≤ 0xFFFFFFE0 ∧ allWritten g.color := by
  intro x hx
  refine ⟨rfl, rfl, rfl, rfl, ?_, ?_, rfl, ?_, ?_, ready_written.2⟩ <;>
    fin_cases hx <;> decide

/-- The hypotheses of MapAccepted and MapWhole. -/
theorem witness_MapAccepted : (sys 1 []).engine (sys 1 []).target = some ready ∧ (sys 1 []).engine 0 = some ready ∧
    0 < (sys 1 []).cfg.numEngines ∧ (sys 1 []).cfg.numEngines ≤ 256 ∧ 0 ≠ (sys 1 []).target ∧
    ready.fault = false ∧ ready.busy = false ∧ ready.locked = false ∧ ready.isValid .mapId = true ∧
    ready.init = true ∧ allWritten ready.color ∧ (sys 1 []).cfg.signature (ready.param .mapId) =
      some ((sys 1 []).cfg.pixelBits 0, (sys 1 []).cfg.pixelBits (sys 1 []).target) :=
  ⟨rfl, rfl, by decide, by decide, by decide, rfl, rfl, rfl, by decide, rfl, ready_written.2, by decide⟩

theorem witness_FillPacking : (0 ≤ 128 ∧ 128 ≤ 128) ∧
    ∀ r ∈ usesClear 32, (ready.setParam .fill1 7).param r = ready.param r := by decide

/-- An engine at some phase, with RASTER's and WRITE's snapshot registers, the grids and MASK written. -/
def atPhase (seq : Phase) (port : PortState) (mask cur : Mask) : Engine :=
  { ready with
    busy := true, seq := seq, port := port
    snap := ⟨Vector.replicate 16 (some 0), none, some 0⟩
    tr := { Transients.unwritten with
      u := some (broadcast 0), v := some (broadcast 0), w := some (broadcast f32One), mask := some mask,
      cur := some cur, lane := some 0, pushk := some 0 } }

theorem atPhase_args (seq : Phase) (port : PortState) (mask cur : Mask) :
    ∃ a, (atPhase seq port mask cur).snap.rasterArgs = some a := ⟨_, rfl⟩

/-- ResponsesTaken's hypotheses, clause by clause: each response at its own phase. -/
theorem witness_ResponsesTaken :
    (let g := atPhase (.rEval 15) (.answered (.eval 0 ⟨0, 0⟩ ⟨0, 0⟩) (.eval (broadcast 0) (broadcast 0))) 0 0
     (sysWith g ready 0 []).engine 0 = some g ∧ (∃ a, g.snap.rasterArgs = some a) ∧ g.seq = .rEval 15 ∧
       answers (.eval 0 ⟨0, 0⟩ ⟨0, 0⟩) (.eval (broadcast 0) (broadcast 0)) = true ∧
       g.port = .answered (.eval 0 ⟨0, 0⟩ ⟨0, 0⟩) (.eval (broadcast 0) (broadcast 0))) ∧
    (let g := atPhase (.rInterp 0 63) (.answered (.interp 0 0 0 0) (.interp ⟨0⟩)) 0 0
     (sysWith g ready 0 []).engine 0 = some g ∧ (∃ a, g.snap.rasterArgs = some a) ∧ g.seq = .rInterp 0 63 ∧
       answers (.interp 0 0 0 0) (.interp ⟨0⟩) = true ∧ g.port = .answered (.interp 0 0 0 0) (.interp ⟨0⟩)) ∧
    (let g := atPhase (.rFrag 0 0) (.answered (.frag 0 ⟨0⟩) (.frag 0)) 0 0
     (sysWith g ready 0 []).engine 0 = some g ∧ (∃ a, g.snap.rasterArgs = some a) ∧ g.seq = .rFrag 0 0 ∧
       answers (.frag 0 ⟨0⟩) (.frag 0) = true ∧ g.port = .answered (.frag 0 ⟨0⟩) (.frag 0) ∧
       readLane g.color 0 0 = some 0) :=
  ⟨⟨rfl, atPhase_args _ _ _ _, rfl, rfl, rfl⟩, ⟨rfl, atPhase_args _ _ _ _, rfl, rfl, rfl⟩,
    ⟨rfl, atPhase_args _ _ _ _, rfl, rfl, rfl, by simp [atPhase, ready]⟩⟩

/-- CoverStep's hypotheses, at the first tile and at the last. -/
theorem witness_CoverStep : ∀ t ∈ [(0 : Tile), 15],
    let g := atPhase (.rCover t) .quiet 0 0
    (sysWith g ready 0 []).engine 0 = some g ∧ g.seq = .rCover t ∧ g.port = .quiet ∧
    (∃ a, g.snap.rasterArgs = some a) ∧ g.tr.u = some (broadcast 0) ∧ g.tr.v = some (broadcast 0) :=
  fun _ _ => ⟨rfl, rfl, rfl, atPhase_args _ _ _ _, rfl, rfl⟩

theorem witness_EvaluatorContract : evalRejects draw0 (broadcast 0xBF800000) (broadcast 0) ∧
    evalFinite (broadcast 0) (broadcast 0) ∧
    evalDisjoint draw0 draw0 (broadcast 0xBF800000) (broadcast 0) (broadcast 0) (broadcast 0) := by
  have h : ∀ (c : Binary32) (i : Lane), (broadcast c)[i] = c := fun c i => gridOf_getElem _ i
  refine ⟨fun i => .inr (.inl (by rw [h]; decide)), fun i => ⟨by rw [h]; decide, by rw [h]; decide⟩, ?_⟩
  apply mask_ext
  intro i
  have : (coverMask (coverW draw0 (broadcast 0xBF800000) (broadcast 0)) (broadcast 0xBF800000)
      (broadcast 0)).getLsbD i = false := by
    have hs : f32Sign (0xBF800000 : Binary32) = true := by decide
    simp only [coverMask, BitVec.getLsbD_not, BitVec.getLsbD_or, signmask_getLsbD, h, hs]
    simp
  rw [BitVec.getLsbD_and, this]; simp

/-- A lane's depth arithmetic with weights 1, 0, 0 and vertex depths 0: the new depth is 0. -/
theorem zeroDepth (n0 n1 n2 n3 n4 : DrawId) :
    fadd n4 (fadd n3 (fmul n0 f32One 0) (fmul n1 0 0)) (fmul n2 0 0) = 0 := by
  rw [fmul_finite n0 _ _ (by decide) (by decide), fmul_finite n1 _ _ (by decide) (by decide),
    fmul_finite n2 _ _ (by decide) (by decide), show mulFinite f32One 0 = 0 by decide, show mulFinite 0 0 = 0 by decide,
    fadd_finite n3 _ _ (by decide) (by decide), show addFinite 0 0 = 0 by decide,
    fadd_finite n4 _ _ (by decide) (by decide)]
  decide

theorem zeroDepth_lane (n : DrawId) (i : Lane) :
    (depthZ n (broadcast f32One) (broadcast 0) (broadcast 0) 0 0 0)[i] = 0 := by
  simp only [depthZ, laneadd, lanemul, broadcast, gridOf_getElem]
  exact zeroDepth _ _ _ _ _

/-- The hypotheses of DepthTestLanes, DepthStep and DepthStaysInRange: a cleared tile, with no lane in MASK, with lane 0
in it, and with every lane; a lane that was in MASK survives. -/
theorem witness_DepthTestLanes : ∀ mask ∈ [(0 : Mask), 1, ~~~0],
    let g := atPhase (.rDepth 3) .quiet mask 0
    (sysWith g ready 0 []).engine 0 = some g ∧ g.seq = .rDepth 3 ∧ g.port = .quiet ∧
    (∃ a, g.snap.rasterArgs = some a) ∧ g.tr.w = some (broadcast f32One) ∧ g.tr.u = some (broadcast 0) ∧
    g.tr.v = some (broadcast 0) ∧ g.tr.mask = some mask ∧
    (∀ i : Lane, readLane g.depth 3 i = some (broadcast f32One)[i]) ∧
    (∀ i z, readLane g.depth 3 i = some z → depthInRange z) ∧
    ∃ g1, depthTest 0 3 g = .ok g1 ∧ g1.tr.mask = some mask ∧
      ∀ i z, readLane g1.depth 3 i = some z → f32IsNaN z = false := by
  intro mask _
  have hread : ∀ i : Lane, readLane (atPhase (.rDepth 3) .quiet mask 0).depth 3 i = some (broadcast f32One)[i] := by
    intro i; rw [broadcast, gridOf_getElem]; simp [atPhase, ready]
  have ho := (readTile_eq_some (atPhase (.rDepth 3) .quiet mask 0).depth 3 (broadcast f32One)).mpr hread
  have hz := zeroDepth_lane ⟨0, (atPhase (.rDepth 3) .quiet mask 0).fpDraws⟩
  have hm : depthMask ⟨0, (atPhase (.rDepth 3) .quiet mask 0).fpDraws⟩ mask (broadcast f32One)
      (depthZ ⟨0, (atPhase (.rDepth 3) .quiet mask 0).fpDraws⟩ (broadcast f32One) (broadcast 0) (broadcast 0) 0 0 0) =
        mask := by
    apply mask_ext
    intro i
    have hf : ∀ n, f32Sign (fsub n f32One 0) = false := fun n => by
      rw [fsub_finite n _ _ (by decide) (by decide)]; decide
    have hn : ∀ n, f32Sign (fadd n 0 f32One) = false := fun n => by
      rw [fadd_finite n _ _ (by decide) (by decide)]; decide
    generalize depthZ _ _ _ _ _ _ _ = z at hz ⊢
    simp only [depthMask, BitVec.getLsbD_and, BitVec.getLsbD_not, signmask_getLsbD, depthF, depthN, lanesub, laneadd,
      gridOf_getElem, hz, broadcast, hf, hn]
    simp
  refine ⟨rfl, rfl, rfl, ⟨_, rfl⟩, rfl, rfl, rfl, rfl, hread, ?_,
    _, (depthTest_eq_ok ..).mpr ⟨_, _, _, _, _, _, rfl, rfl, rfl, rfl, rfl, ho, rfl⟩, congrArg some hm, ?_⟩
  · intro i z hz
    rw [hread i, broadcast, gridOf_getElem] at hz
    obtain rfl := Option.some.inj hz
    exact ⟨by decide, by decide, by decide⟩
  · intro i z h
    simp only [readLane_writeTile, if_true, select_getElem, Option.some.injEq] at h
    subst h
    split
    · exact congrArg f32IsNaN (hz i)
    · rw [broadcast, gridOf_getElem]; decide

/-- BlendTaken's hypotheses, at the last lane of the last tile, with no lane left and with one. -/
theorem witness_BlendTaken : ∀ cur ∈ [(0 : Mask), 2],
    let g := atPhase (.rBlend 15 63) (.answered (.blend 0 0 0) (.blend 0)) 0 cur
    (sysWith g ready 0 []).engine 0 = some g ∧ g.seq = .rBlend 15 63 ∧ answers (.blend 0 0 0) (.blend 0) = true ∧
    g.port = .answered (.blend 0 0 0) (.blend 0) ∧ (∃ a, g.snap.rasterArgs = some a) ∧
    g.tr.w = some (broadcast f32One) ∧ g.tr.u = some (broadcast 0) ∧ g.tr.v = some (broadcast 0) ∧
    g.tr.cur = some cur :=
  fun _ _ => ⟨rfl, rfl, rfl, rfl, atPhase_args _ _ _ _, rfl, rfl, rfl, rfl⟩

/-- PushTaken's hypotheses, at the first push, the last but one and the last. -/
theorem witness_PushTaken : ∀ k ∈ [(0 : Fin 1024), 1022, 1023],
    let g := { atPhase (.wPush k) (.answered (.push 0 0 0) .ack) 0 0 with
      tr := { Transients.unwritten with pushk := some k } }
    (sysWith g ready 0 []).engine 0 = some g ∧ g.seq = .wPush k ∧ g.tr.pushk = some k ∧
    answers (.push 0 0 0) .ack = true ∧ g.port = .answered (.push 0 0 0) .ack ∧
    g.snap.writeArgs = some (0, 0, 0) ∧ allWritten g.color :=
  fun _ _ => ⟨rfl, rfl, rfl, rfl, rfl, rfl, ready_written.2⟩

theorem witness_WriteCoordinates : (0x00000000 : Word).toNat ≤ 0xFFFFFFE0 ∧
    (0xFFFFFFE0 : Word).toNat ≤ 0xFFFFFFE0 := by decide

/-- Engine 1 at lane i of tile t of a MAP from engine 0. -/
def mapping (t : Tile) (i : Lane) : Engine := { startMap 0 ready with seq := .mMap t i }

theorem mapping_args (t : Tile) (i : Lane) : (mapping t i).snap.mapArgs = some (3, 0) :=
  mapArgs_capture ready 0 none (by decide)

/-- MapStep's hypotheses at the first lane, at a tile's last lane and at the last lane of all. -/
theorem witness_MapStep : ∀ x ∈ [((0 : Tile), (0 : Lane)), (0, 63), (15, 63)],
    (sysWith ready.lock (mapping x.1 x.2) 1 []).engine 1 = some (mapping x.1 x.2) ∧
    (sysWith ready.lock (mapping x.1 x.2) 1 []).engine 0 = some ready.lock ∧ (0 : Nat) ≠ 1 ∧
    (mapping x.1 x.2).snap.mapArgs = some (3, 0) ∧ readLane ready.lock.color x.1 x.2 = some 0 :=
  fun x _ => ⟨rfl, rfl, by decide, mapping_args _ _, by simp [ready]⟩

/-- A waiting engine and a quiet one. -/
theorem witness_PortProtocol : (∃ g r, EngineOk 32 0 g ∧ g.port = .waiting r) ∧ EngineOk 32 0 ready ∧
    ∀ r, ready.port ≠ .waiting r := by
  refine ⟨?_, ready_ok _ _, fun r => by simp [ready, Engine.reset]⟩
  have b := ready_base 32
  obtain ⟨g', hg, ok⟩ := enterTile_ok (e := 0) (pb := 32)
    (g := ready.start { regs := ready.capture usesRaster, src := none, order := none }) 0
    ⟨b.1, b.2, b.3, b.4, b.5⟩ rfl rfl (by rw [Engine.start_snap, rasterArgs_capture]; rfl)
  obtain ⟨a, _, rfl⟩ := (enterTile_eq_ok ..).mp hg
  exact ⟨_, _, ok, rfl⟩

/-- HostWriteTable's and HostReadTable's hypotheses, at the edges of each row of their tables. -/
theorem witness_HostWriteTable : (sys 0 []).cfg.Wf ∧ (sys 0 []).engine 1 = some ready ∧ (sys 0 []).inReset = false ∧
    1 < (sys 0 []).cfg.numEngines ∧
    (∀ off ∈ [0x00, 0x04, 0x08, 0x0C, 0x10, 0x4C, 0x50, 0xFC], off < 0x100 ∧ off % 4 = 0 ∧
      ∃ s : State, s = sys 0 [.hostWrite (Platform.vectors.base 1 + off) 4 1] ∧
        s.inputs = .hostWrite (s.cfg.base 1 + off) 4 1 :: []) ∧
    0x10 = 0x10 + 4 * Param.posX.place.val ∧ 0x4C = 0x10 + 4 * Param.fill3.place.val :=
  ⟨by decide, rfl, rfl, by decide, fun _ h => ⟨by fin_cases h <;> decide, by fin_cases h <;> decide, _, rfl, rfl⟩,
    rfl, rfl⟩

theorem witness_HostReadTable : ∀ off ∈ [0x00, 0x04, 0x08, 0x0C, 0x10, 0x4C, 0x50, 0xFC],
    off < 0x100 ∧ off % 4 = 0 ∧ ∃ s : State, s = sys 0 [.hostRead (Platform.vectors.base 1 + off) 4] ∧
      s.inputs = .hostRead (s.cfg.base 1 + off) 4 :: [] :=
  fun _ h => ⟨by fin_cases h <;> decide, by fin_cases h <;> decide, _, rfl, rfl⟩

theorem witness_IdFields : (255 : Nat) < 256 ∧ (128 : Nat) ≤ 128 := by decide

/-- PseudoInstructions' hypotheses: a WAIT on a busy engine and on an idle one, alone, before an agent's event, and
before a host access with another engine ready. -/
theorem witness_PseudoInstructions : (sys 0 []).cfg.Wf ∧ 0 < (sys 0 []).cfg.numEngines ∧
    (∀ rest ∈ [[], [Event.engine 1], [Event.hostRead 0 4]],
      (sysWith (clearing 32) ready 0 (.hostWait 4 :: rest)).inputs =
        assemble (sysWith (clearing 32) ready 0 (.hostWait 4 :: rest)).cfg 0 .wait ++ rest) ∧
    (clearing 32).busy = true ∧ ready.busy = false ∧
    ∀ inputs, ∃ s', engineStep (sysWith (clearing 32) ready 0 inputs) 0 = some (.next s') :=
  ⟨by decide, by decide, fun _ _ => rfl, rfl, rfl, clearing_engineStep⟩

/-- A half-word access, and a word access off its alignment. -/
theorem witness_BadAccessStops : locate Platform.vectors 0x104 = some (1, 4) ∧ (2 : Nat) ≠ 4 ∧
    locate Platform.vectors 0x106 = some (1, 6) ∧ 6 % 4 ≠ 0 := by decide

/-- The first address above engine 2's window. -/
theorem witness_UnmappedStops : ∀ k ∈ Platform.vectors.engines, 0x300 < k.base ∨ k.base + 0x100 ≤ 0x300 := by decide

theorem witness_WindowByteOrder : (sys 0 []).cfg.Wf ∧ (sys 0 []).engine 2 = some ready ∧
    2 < (sys 0 []).cfg.numEngines ∧ ((0xFC : Nat) < 0x100 ∧ 0xFC % 4 = 0) ∧ ∀ j, j < 4 →
      (0x300 : Nat) ≠ (sys 0 []).cfg.base 2 + 0x10 + 4 * Param.fill3.place.val + j := by decide

/-- The largest finite value, the least subnormal, and their like, and the infinities. -/
theorem witness_roundings : f32IsInf 0x7F800000 = true ∧ f32IsInf 0xFF800000 = true ∧
    f32Sign 0x7F800000 ≠ f32Sign 0xFF800000 ∧ f32IsNaN 0x7F800000 = false ∧ f32IsFinite 0x7F7FFFFF = true ∧
    f32IsFinite 0x00000001 = true ∧ f32IsFinite 0x80000000 = true ∧ f32IsFinite 0xFF7FFFFF = true := by decide

/-- Sums and products that stay finite, and ones that overflow. -/
theorem witness_roundings_results : f32IsFinite (fadd draw0 0x7F7FFFFF 0x00000001) = true ∧
    f32IsInf (fadd draw0 0x7F7FFFFF 0x7F7FFFFF) = true ∧ f32IsFinite (fmul draw0 0x00000001 0x3F000000) = true ∧
    f32IsInf (fmul draw0 0x7F7FFFFF 0x40000000) = true := by decide

/-- SignTestsCompare's cases: a ≥ b, the signed-zero pair, and a < b. -/
theorem witness_SignTestsCompare : f32Units (0x00000000 : Binary32) ≤ f32Units (0x3F800000 : Binary32) ∧
    f32Sign (fsub draw0 0x3F800000 0x00000000) = false ∧ f32Sign (fsub draw0 0x80000000 0x00000000) = true ∧
    f32Sign (fsub draw0 0x00000000 0x3F800000) = true := by decide

/-- The hypotheses of InitOnlyByClear, ParametersByHostOnly, BufferWriters and ConfigurationFixed: a CLEAR's step that
sets INIT and changes both buffers, a reset that clears INIT, and a parameter write that changes a register. -/
theorem witness_steps :
    (∃ s' g', step (sysWith (clearing 32) ready 0 [.engine 0]) = .next s' ∧
      (sysWith (clearing 32) ready 0 [.engine 0]).engine 0 = some (clearing 32) ∧ s'.engine 0 = some g' ∧
      g'.init = true ∧ (clearing 32).init = false ∧ g'.depth ≠ (clearing 32).depth ∧
      g'.color ≠ (clearing 32).color ∧ ownMove (sysWith (clearing 32) ready 0 [.engine 0]) 0) ∧
    (∃ s', step (sys 0 [.reset true]) = .next s' ∧ (sys 0 [.reset true]).engine 0 = some ready ∧
      s'.engine 0 = some ready.resetAgain ∧ ready.init = true ∧ ready.resetAgain.init = false) ∧
    ∃ s', step (sys 0 [.hostWrite 0x10 4 7]) = .next s' ∧ s'.engine 0 = some (ready.setParam .posX 7) ∧
      (ready.setParam .posX 7).param .posX ≠ ready.param .posX := by
  refine ⟨?_, ⟨_, rfl, rfl, rfl, rfl, rfl⟩, _, rfl, rfl, by decide⟩
  obtain ⟨g', hg, hd, hi, p, hc⟩ := clearing_step 32
  have h : engineStep (sysWith (clearing 32) ready 0 []) 0 =
      some (.next ((sysWith (clearing 32) ready 0 []).setEngine 0 g' |>.logRequest 0 g'.port)) := by
    show Option.map _ (some (clearStep 32 (clearing 32))) = _
    rw [hg]; rfl
  refine ⟨(sysWith (clearing 32) ready 0 []).setEngine 0 g' |>.logRequest 0 g'.port, g', ?_, rfl, ?_, hi, rfl, ?_, ?_,
    rfl, .inl ⟨[], rfl⟩⟩
  · show (engineStep (sysWith (clearing 32) ready 0 []) 0).getD (.next (sysWith (clearing 32) ready 0 [])) = _
    rw [h]; rfl
  · rw [State.engine_logRequest]
    exact State.engine_setEngine_self (sysWith (clearing 32) ready 0 []) 0 (clearing 32) g' rfl
  · rw [hd]; intro hx
    have := congrArg (fun b => readLane b 0 0) hx
    simp [readLane, fillBuffer, clearing, startClear, Engine.reset] at this
  · rw [hc]; intro hx
    have := congrArg (fun b => readLane b 0 0) hx
    simp [readLane, fillBuffer, clearing, startClear, Engine.reset] at this

theorem witness_EnginesIndependent : (1 : Nat) ≠ 0 ∧
    (∃ s', engineStep (sysWith (clearing 32) ready 0 []) 0 = some (.next s')) ∧
    ∃ s', presentWord (sys 0 []) 0 0x1 = .next s' := ⟨by decide, clearing_engineStep [], _, rfl⟩

theorem witness_HostWritesCommute : ∃ s', engineStep (sysWith (clearing 32) ready 0 []) 0 = some (.next s') :=
  clearing_engineStep []

/-- StepKeepsInv's and NoModelFault's hypotheses: a state with the invariant and a next state. -/
theorem witness_StepKeepsInv : Inv (sys 0 [.hostRead 0x104 4]) ∧ ∃ s', step (sys 0 [.hostRead 0x104 4]) = .next s' :=
  ⟨sys_inv _ _, _, rfl⟩

/-- NoModelFault's clauses: its stops, an access that has a step, no event, and an event that is no host access. -/
theorem witness_NoModelFault : Inv (sys 0 []) ∧ (sys 0 []).inputs = [] ∧ Inv (sys 0 [.engine 0]) ∧
    (Event.engine 0).isHost = false ∧ Inv (sys 0 [.hostWait 0x2FC]) ∧ locate (sys 0 []).cfg 0x2FC = some (2, 0xFC) ∧
    Inv (sys 0 [.hostRead 0x300 4]) ∧ step (sys 0 [.hostRead 0x300 4]) = .fault .unmappedAddress ∧
    Inv (sys 0 [.hostRead 0x2 4]) ∧ step (sys 0 [.hostRead 0x2 4]) = .refused (.badAccess false) :=
  ⟨sys_inv _ _, rfl, sys_inv _ _, rfl, sys_inv _ _, by decide, sys_inv _ _, rfl, sys_inv _ _, rfl⟩

/-- ResetState's hypotheses: reset asserted, a configuration's engine, and a CMD write while reset is asserted. -/
theorem witness_ResetState : (sys 0 [.reset true]).inputs = .reset true :: [] ∧
    (State.resetOn Platform.vectors).engine 2 = some Engine.reset ∧
    (∃ s', step { sys 0 [.hostWrite 0 4 1] with inReset := true } = .next s') ∧
    ∀ on rest, (sys 0 [.hostWrite 0 4 1]).inputs ≠ .reset on :: rest :=
  ⟨rfl, rfl, ⟨_, rfl⟩, fun _ _ => by simp [sys, sysWith]⟩

theorem witness_InvAtReset : Platform.vectors.Wf := by decide

theorem witness_RunsAreSafe : Reachable { State.resetOn Platform.vectors with inputs := [] } :=
  .start _ _ (by decide)

theorem mapping_ok (t : Tile) (i : Lane) : EngineOk 8 1 (mapping t i) := by
  have b := ready_base 8
  refine ok_of ⟨b.1, b.2, b.3, b.4, b.5⟩ (by simp [mapping, startMap]) (fun _ _ => rfl) (by simp [mapping, startMap]) ?_
  exact ⟨rfl, by rw [mapping_args]; rfl⟩

/-- MapSourceFrozen's and BoundedProgress's hypotheses: engine 1 runs a MAP from engine 0. -/
theorem witness_MapSourceFrozen : Inv (sysWith ready.lock (mapping 0 0) 1 []) ∧
    mapsFrom (sysWith ready.lock (mapping 0 0) 1 []) 1 0 3 0 0 ∧ (mapping 0 0).seq ≠ .idle ∧
    (∀ on rest, (sysWith ready.lock (mapping 0 0) 1 []).inputs ≠ .reset on :: rest) ∧
    ∃ s', step (sysWith ready.lock (mapping 0 0) 1 [.answer 0 .ack]) = .next s' := by
  have e0 : (sysWith ready.lock (mapping 0 0) 1 []).engine 0 = some ready.lock := rfl
  have e1 : (sysWith ready.lock (mapping 0 0) 1 []).engine 1 = some (mapping 0 0) := rfl
  have hm : mapsFrom (sysWith ready.lock (mapping 0 0) 1 []) 1 0 3 0 0 := ⟨_, e1, rfl, mapping_args 0 0⟩
  have cases : ∀ e g, (sysWith ready.lock (mapping 0 0) 1 []).engine e = some g →
      (e = 0 ∧ g = ready.lock) ∨ (e = 1 ∧ g = mapping 0 0) ∨ (e = 2 ∧ g = ready) := by
    intro e g hg
    match e, hg with
    | 0, hg => exact .inl ⟨rfl, (Option.some.inj hg).symm⟩
    | 1, hg => exact .inr (.inl ⟨rfl, (Option.some.inj hg).symm⟩)
    | 2, hg => exact .inr (.inr ⟨rfl, (Option.some.inj hg).symm⟩)
    | n + 3, hg => simp [State.engine, sysWith] at hg
  have only : ∀ d src m t i, mapsFrom (sysWith ready.lock (mapping 0 0) 1 []) d src m t i →
      d = 1 ∧ src = 0 ∧ m = 3 ∧ t = 0 ∧ i = 0 := by
    rintro d src m t i ⟨g, hg, hs, ha⟩
    rcases cases d g hg with ⟨rfl, rfl⟩ | ⟨rfl, rfl⟩ | ⟨rfl, rfl⟩
    · simp [ready, Engine.reset] at hs
    · rw [mapping_args] at ha
      simp only [Option.some.injEq, Prod.mk.injEq] at ha
      simp only [mapping, Phase.mMap.injEq] at hs
      exact ⟨rfl, ha.2.symm, ha.1.symm, hs.1.symm, hs.2.symm⟩
    · simp [ready, Engine.reset] at hs
  refine ⟨⟨by decide, rfl, ?_, ?_, ?_, ?_, fun h => by simp [sysWith, State.reset, State.resetOn] at h⟩, hm,
    by simp [mapping], fun _ => by simp [sysWith], _, rfl⟩
  · intro e g hg
    rcases cases e g hg with ⟨rfl, rfl⟩ | ⟨rfl, rfl⟩ | ⟨rfl, rfl⟩
    · have h := ready_ok 32 0
      exact ⟨h.busyIff, h.codeIff, h.codeLe, h.written, h.runsInit, h.colorFits, h.portFits, h.unsetZero, h.phase⟩
    · exact mapping_ok 0 0
    · exact ready_ok _ _
  · intro d src m t i h
    obtain ⟨rfl, rfl, rfl, rfl, rfl⟩ := only _ _ _ _ _ h
    refine ⟨by decide, by decide, _, _, e1, e0, rfl, rfl, fun t' i' hlt => ?_⟩
    simp [numberOfLane] at hlt
  · intro e g hg hl
    rcases cases e g hg with ⟨rfl, rfl⟩ | ⟨rfl, rfl⟩ | ⟨rfl, rfl⟩
    · exact ⟨rfl, 1, 3, 0, 0, hm⟩
    · simp [mapping, startMap, ready, Engine.reset] at hl
    · simp [ready, Engine.reset] at hl
  · intro d d' src m m' t t' i i' h h'
    exact (only _ _ _ _ _ h).1.trans (only _ _ _ _ _ h').1.symm

/-- BoundedProgress's clauses on steps: a running MAP, with another agent's event next, with its own, and with none
listed. -/
theorem witness_BoundedProgress_steps :
    ∀ inputs ∈ [[Event.answer 0 .ack], [.engine 1], []],
      Inv (sysWith ready.lock (mapping 0 0) 1 inputs) ∧
      (sysWith ready.lock (mapping 0 0) 1 inputs).engine 1 = some (mapping 0 0) ∧ (mapping 0 0).seq ≠ .idle ∧
      (mapping 0 0).port = .quiet ∧ (inputs = [.engine 1] → ownMove (sysWith ready.lock (mapping 0 0) 1 inputs) 1) ∧
      ∃ s', step (sysWith ready.lock (mapping 0 0) 1 inputs) = .next s' := by
  intro inputs hin
  have hi : Inv (sysWith ready.lock (mapping 0 0) 1 inputs) :=
    inv_congr (s := sysWith ready.lock (mapping 0 0) 1 []) rfl rfl id witness_MapSourceFrozen.1
  refine ⟨hi, rfl, by simp [mapping], rfl, fun h => ⟨rfl, .inl ⟨[], h⟩⟩, ?_⟩
  simp only [List.mem_cons, List.not_mem_nil, or_false] at hin
  rcases hin with rfl | rfl | rfl <;> exact ⟨_, rfl⟩

/-- BoundedProgress's last clause: each command can be accepted in a state with the invariant. -/
theorem witness_BoundedProgress : Inv (sys 1 []) ∧ ready.busy = false ∧
    verdict (sys 1 []) 1 ready (encode .clear) = .accepted .clear ∧
    verdict (sys 1 []) 1 ready (encode .raster) = .accepted .raster ∧
    verdict (sys 1 []) 1 ready (encode .write) = .accepted .write ∧
    verdict (sys 1 []) 1 ready (encode (.map 0)) = .accepted (.map 0) :=
  ⟨sys_inv _ _, rfl, by decide, by decide, by decide, by decide⟩

end Sys2Proof.Machine
end

section
/-! What an accepted command, a host access and one step of the system can do: one inversion lemma each. -/
namespace Sys2Proof.Machine

/-! ## The state after an engine's own step -/

@[simp] theorem State.logRequest_inReset (s : State) (e : Nat) (p : PortState) :
    (s.logRequest e p).inReset = s.inReset := by
  cases p <;> rfl

theorem steppedTo_eq (s : State) (e : Nat) (g : Engine) :
    steppedTo s e g = (s.setEngine e g).logRequest e g.port := by
  unfold steppedTo State.logRequest
  cases g.port <;> rfl

@[simp] theorem steppedTo_cfg (s : State) (e : Nat) (g : Engine) : (steppedTo s e g).cfg = s.cfg := by
  simp [steppedTo_eq]

@[simp] theorem steppedTo_engines (s : State) (e : Nat) (g : Engine) :
    (steppedTo s e g).engines = s.engines.set e g := by
  simp [steppedTo_eq]

@[simp] theorem steppedTo_inReset (s : State) (e : Nat) (g : Engine) :
    (steppedTo s e g).inReset = s.inReset := by
  simp [steppedTo_eq]

@[simp] theorem steppedTo_engine (s : State) (e d : Nat) (g : Engine) :
    (steppedTo s e g).engine d = (s.setEngine e g).engine d := by
  simp [steppedTo_eq]

theorem commit_ok (s : State) (e : Nat) (g : Engine) : s.commit e (.ok g) = .next (steppedTo s e g) := by
  rw [steppedTo_eq]; rfl

theorem commit_eq_next {s s' : State} {e : Nat} {r : Except Fault Engine} (h : s.commit e r = .next s') :
    ∃ g, r = .ok g ∧ s' = steppedTo s e g := by
  cases r with
  | error f => simp [State.commit] at h
  | ok g => rw [commit_ok] at h; exact ⟨g, rfl, (Host.Outcome.next.inj h).symm⟩

/-- Replacing an engine that the state holds; the others stay. -/
theorem State.engine_setEngine (s : State) (e d : Nat) (g : Engine) :
    (s.setEngine e g).engine d = if e = d then (s.engine d).map fun _ => g else s.engine d := by
  by_cases h : e = d
  · subst h
    cases hg : s.engine e with
    | some g0 => simp [s.engine_setEngine_self e g0 g hg]
    | none =>
      simp only [State.engine, State.setEngine_engines] at hg ⊢
      simpa using hg
  · simp [h]

/-! ## Presenting a command word -/

/-- An engine without a fault, not occupied, whose command's checks all pass. -/
def passes (g : Engine) (checks : List (Bool × ErrCode)) : Prop :=
  g.fault = false ∧ g.busy = false ∧ g.locked = false ∧ ∀ x ∈ checks, x.1 = false

/-- A word is not dropped exactly when the engine is neither BUSY nor LOCKED and the command's own checks pass. -/
theorem firstFailing_occupied_eq_none (g : Engine) (checks : List (Bool × ErrCode)) :
    firstFailing ((g.occupied, .busy) :: checks) = none ↔
      g.busy = false ∧ g.locked = false ∧ ∀ x ∈ checks, x.1 = false := by
  simp [firstFailing_eq_none, Engine.occupied, and_assoc]

/-- A word whose checks pass is accepted (60_exceptions R276). -/
theorem presentTo_accept {s : State} {checks : Engine → List (Bool × ErrCode)} {accept : Engine → Outcome}
    {g : Engine} (hg : s.engine s.target = some g) (h : passes g (checks g)) :
    presentTo s checks accept = accept g := by
  obtain ⟨hf, hrest⟩ := h
  have hn := (firstFailing_occupied_eq_none g (checks g)).mpr hrest
  rcases presentTo_cases s checks accept g hg with ⟨h1, -⟩ | ⟨-, c, h1, -⟩ | ⟨-, -, h1⟩
  · simp [hf] at h1
  · simp [hn] at h1
  · exact h1

/-- A presentation that answers dropped the word, silently or with a fault, or accepted it (60_exceptions R275 to R277). -/
theorem presentTo_eq_next {s s' : State} {checks : Engine → List (Bool × ErrCode)} {accept : Engine → Outcome}
    (h : presentTo s checks accept = .next s') : ∃ g, s.engine s.target = some g ∧
      ((g.fault = true ∧ s' = s) ∨ (g.fault = false ∧ ∃ c, s' = s.raise s.target g c) ∨
        (passes g (checks g) ∧ accept g = .next s')) := by
  cases hg : s.engine s.target with
  | none => simp [presentTo, hg] at h
  | some g =>
    refine ⟨g, rfl, ?_⟩
    rcases presentTo_cases s checks accept g hg with ⟨hf, hp⟩ | ⟨hf, c, -, hp⟩ | ⟨hf, hn, hp⟩ <;> rw [hp] at h
    · exact .inl ⟨hf, (Host.Outcome.next.inj h).symm⟩
    · exact .inr (.inl ⟨hf, c, (Host.Outcome.next.inj h).symm⟩)
    · exact .inr (.inr ⟨⟨hf, (firstFailing_occupied_eq_none g _).mp hn⟩, h⟩)

/-- What a command's acceptance by the target engine `g` answers, with the checks of 60_exceptions R276 it passed. -/
inductive Accepted (s : State) (g : Engine) : Instr → State → Prop where
  | clear : Accepted s g .clear (s.setEngine s.target (startClear (s.cfg.pixelBits s.target) g))
  | raster {g'} : g.init = true → startRaster s.target g = .ok g' → Accepted s g .raster (steppedTo s s.target g')
  | write {g'} : g.init = true → startWrite s.target g = .ok g' → Accepted s g .write (steppedTo s s.target g')
  | map {src a} : src < s.cfg.numEngines → src ≠ s.target → s.engine src = some a → g.init = true → a.init = true →
      s.cfg.signature (g.param .mapId) = some (s.cfg.pixelBits src, s.cfg.pixelBits s.target) →
      a.busy = false → a.locked = false →
      Accepted s g (.map src) ((s.setEngine s.target (startMap src g)).setEngine src a.lock)

/-- A command was accepted: by an engine without a fault, neither BUSY nor LOCKED. -/
structure Acceptance (s : State) (g : Engine) (i : Instr) (s' : State) : Prop where
  engine : s.engine s.target = some g
  fault : g.fault = false
  busy : g.busy = false
  locked : g.locked = false
  result : Accepted s g i s'

/-- Changing a MAP's source, which is not its destination, is replacing it. -/
theorem modify_source_eq {s : State} {src d : Nat} {a : Engine} (g : Engine) (hne : src ≠ d)
    (ha : s.engine src = some a) (f : Engine → Engine) :
    (s.setEngine d g).modifyEngine src f = (s.setEngine d g).setEngine src (f a) :=
  modify_eq_set (by rw [State.engine_setEngine_ne _ _ _ _ hne.symm]; exact ha) f

/-- The checks of MAP that pass say all that its acceptance needs (60_exceptions R276, 44_commands R230). -/
theorem checksMap_pass {s : State} {src : Nat} {g a : Engine} (ha : s.engine src = some a) :
    (∀ x ∈ checksMap s src g, x.1 = false) ↔ src < s.cfg.numEngines ∧ src ≠ s.target ∧ g.isValid .mapId = true ∧
      g.init = true ∧ a.init = true ∧
      s.cfg.signature (g.param .mapId) = some (s.cfg.pixelBits src, s.cfg.pixelBits s.target) ∧
      a.busy = false ∧ a.locked = false := by
  simp [checksMap, sourceIs, ha, usesMap, Engine.allValid, Engine.occupied, and_assoc]

/-- A command word's step drops the word, silently or with a fault, or accepts the command. -/
theorem exec_eq_next {i : Instr} {s s' : State} (h : exec i s = .next s') : ∃ g, s.engine s.target = some g ∧
    ((g.fault = true ∧ s' = s) ∨ (g.fault = false ∧ ∃ c, s' = s.raise s.target g c) ∨ Acceptance s g i s') := by
  cases i with
  | clear =>
    obtain ⟨g, hg, hd | hd | ⟨⟨hf, hb, hl, -⟩, ha⟩⟩ := presentTo_eq_next h
    · exact ⟨g, hg, .inl hd⟩
    · exact ⟨g, hg, .inr (.inl hd)⟩
    · obtain rfl := Host.Outcome.next.inj ha
      exact ⟨g, hg, .inr (.inr ⟨hg, hf, hb, hl, .clear⟩)⟩
  | raster =>
    obtain ⟨g, hg, hd | hd | ⟨⟨hf, hb, hl, hc⟩, ha⟩⟩ := presentTo_eq_next h
    · exact ⟨g, hg, .inl hd⟩
    · exact ⟨g, hg, .inr (.inl hd)⟩
    · obtain ⟨g', hr, rfl⟩ := commit_eq_next ha
      have hi : g.init = true := by simpa using hc (!g.init, .uninit) (by simp [checksRaster])
      exact ⟨g, hg, .inr (.inr ⟨hg, hf, hb, hl, .raster hi hr⟩)⟩
  | write =>
    obtain ⟨g, hg, hd | hd | ⟨⟨hf, hb, hl, hc⟩, ha⟩⟩ := presentTo_eq_next h
    · exact ⟨g, hg, .inl hd⟩
    · exact ⟨g, hg, .inr (.inl hd)⟩
    · obtain ⟨g', hr, rfl⟩ := commit_eq_next ha
      have hi : g.init = true := by simpa using hc (!g.init, .uninit) (by simp [checksWrite])
      exact ⟨g, hg, .inr (.inr ⟨hg, hf, hb, hl, .write hi hr⟩)⟩
  | map src =>
    obtain ⟨g, hg, hd | hd | ⟨⟨hf, hb, hl, hc⟩, ha⟩⟩ := presentTo_eq_next h
    · exact ⟨g, hg, .inl hd⟩
    · exact ⟨g, hg, .inr (.inl hd)⟩
    · cases hsrc : s.engine src with
      | none => simp [hsrc] at ha
      | some a =>
        obtain ⟨hlt, hne, -, hi, hai, hsig, hab, hal⟩ := (checksMap_pass hsrc).mp hc
        simp only [hsrc, Host.Outcome.next.injEq, modify_source_eq _ hne hsrc] at ha
        subst ha
        exact ⟨g, hg, .inr (.inr ⟨hg, hf, hb, hl, .map hlt hne hsrc hi hai hsig hab hal⟩)⟩

/-- Presenting an ILLEGAL word drops it, silently or with a fault (30_encoding R86). -/
theorem presentIllegal_eq_next {s s' : State} (h : presentIllegal s = .next s') : ∃ g, s.engine s.target = some g ∧
    ((g.fault = true ∧ s' = s) ∨ (g.fault = false ∧ ∃ c, s' = s.raise s.target g c)) := by
  obtain ⟨g, hg, hd | hd | ⟨⟨-, -, -, hc⟩, -⟩⟩ := presentTo_eq_next h
  · exact ⟨g, hg, .inl hd⟩
  · exact ⟨g, hg, .inr hd⟩
  · exact absurd (hc (true, .illegal) (by simp)) (by simp)

/-- What a word presented to engine `e` does to the system. -/
theorem presentWord_eq_next {s s' : State} {e : Nat} {w : Word} (h : presentWord s e w = .next s') :
    ∃ g, s.engine e = some g ∧
      (s' = { s with target := e } ∨ (∃ c, s' = State.raise { s with target := e } e g c) ∨
        ∃ i, decode w = .ok i ∧ Acceptance { s with target := e } g i s') := by
  unfold presentWord at h
  cases hd : decode w with
  | ok i =>
    rw [hd] at h
    obtain ⟨g, hg, ⟨-, rfl⟩ | ⟨-, c, rfl⟩ | ha⟩ := exec_eq_next h
    · exact ⟨g, hg, .inl rfl⟩
    · exact ⟨g, hg, .inr (.inl ⟨c, rfl⟩)⟩
    · exact ⟨g, hg, .inr (.inr ⟨i, rfl, ha⟩)⟩
  | error r =>
    rw [hd] at h
    obtain ⟨g, hg, ⟨-, rfl⟩ | ⟨-, c, rfl⟩⟩ := presentIllegal_eq_next h
    · exact ⟨g, hg, .inl rfl⟩
    · exact ⟨g, hg, .inr (.inl ⟨c, rfl⟩)⟩

end Sys2Proof.Machine
end

section
/-! Everything one step of the system can do to the engines, and to one engine. -/
namespace Sys2Proof.Machine

/-! ## An engine's own step -/

/-- A MAP's destination with element (t, i) mapped from the source's pixel p (42_tile R171). -/
def mapWritten (pixelBits : Nat) (m : Word) (p : Pixel) (t : Tile) (i : Lane) (g : Engine) : Engine :=
  { g with color := writeLane g.color t i (mapPixel pixelBits m p) }

/-- A MAP step reads the source's element and goes on to the next lane, or ends and unlocks the source. -/
theorem mapStep_eq_next {s s' : State} {d : Nat} {g : Engine} {t : Tile} {i : Lane} :
    mapStep s d g t i = .next s' ↔ ∃ m src a p, g.snap.mapArgs = some (m, src) ∧ s.engine src = some a ∧
      readLane a.color t i = some p ∧
      ((∃ t' i', laneAfter t i = some (t', i') ∧
          s' = s.setEngine d { mapWritten (s.cfg.pixelBits d) m p t i g with seq := .mMap t' i' }) ∨
        (laneAfter t i = none ∧
          s' = (s.setEngine d (mapWritten (s.cfg.pixelBits d) m p t i g).finish).modifyEngine src Engine.unlock)) := by
  unfold mapStep mapWritten
  cases hm : g.snap.mapArgs with
  | none => simp
  | some x =>
    obtain ⟨m, src⟩ := x
    cases hs : s.engine src with
    | none => simp [hs]
    | some a =>
      cases hp : readLane a.color t i with
      | none => simp [hs, hp]
      | some p =>
        cases hl : laneAfter t i with
        | none => simp [hs, hp, eq_comm]
        | some y =>
          obtain ⟨t', i'⟩ := y
          simp [hs, hp, eq_comm]

/-- An engine's step is its local step, or a MAP step. -/
theorem engineStep_eq_next {s s' : State} {e : Nat} (h : engineStep s e = some (.next s')) :
    ∃ g, s.engine e = some g ∧
      ((∃ g', localStep (s.cfg.pixelBits e) e g = some (.ok g') ∧ s' = steppedTo s e g') ∨
        ∃ t i, g.seq = .mMap t i ∧ mapStep s e g t i = .next s') := by
  unfold engineStep at h
  cases hg : s.engine e with
  | none => simp [hg] at h
  | some g =>
    refine ⟨g, rfl, ?_⟩
    simp only [hg] at h
    split at h
    · rename_i t i hseq
      exact .inr ⟨t, i, hseq, Option.some.inj h⟩
    · obtain ⟨r, hr, hc⟩ := Option.map_eq_some_iff.mp h
      obtain ⟨g', rfl, rfl⟩ := commit_eq_next hc
      exact .inl ⟨g', hr, rfl⟩

/-! ## Accesses, answers and events -/

theorem paramAt_eq_some {off : Nat} {r : Param} (h : paramAt off = some r) : off = 0x10 + 4 * r.place.val := by
  simpa using List.find?_some h

/-- A host access that answers is an aligned word inside a window (20_memory R64). -/
theorem hostAccess_eq_next {s s' : State} {addr width : Nat} {act : Nat → Nat → Outcome}
    (h : hostAccess s addr width act = .next s') :
    ∃ e off, locate s.cfg addr = some (e, off) ∧ width = 4 ∧ off % 4 = 0 ∧ act e off = .next s' := by
  rcases hostAccess_cases s addr width act with ⟨-, ha⟩ | ⟨e, off, hl, ⟨hw, ha⟩ | ⟨-, ha⟩⟩ <;> rw [ha] at h
  · cases h
  · obtain ⟨rfl, ho⟩ : width = 4 ∧ off % 4 = 0 := by simpa [wordAccess] using hw
    exact ⟨e, off, hl, rfl, ho, h⟩
  · cases h

/-- An answer reaches the engine whose request waits for it, and changes nothing otherwise. -/
theorem answer_cases (s : State) (e : Nat) (a : Response) : s.answer e a = s ∨
    ∃ g r, s.engine e = some g ∧ g.port = .waiting r ∧ answers r a = true ∧
      s.answer e a = (s.setEngine e { g with port := .answered r (a.cut (s.cfg.pixelBits e)) }).log
        (.response e (a.cut (s.cfg.pixelBits e))) := by
  unfold State.answer
  cases hg : s.engine e with
  | none => exact .inl rfl
  | some g =>
    cases hp : g.port with
    | quiet => exact .inl (by simp [hp])
    | answered r b => exact .inl (by simp [hp])
    | waiting r =>
      cases ha : answers r a with
      | false => exact .inl (by simp [hp, ha])
      | true => exact .inr ⟨g, r, rfl, hp, ha, by simp [hp, ha]⟩

/-! ## One step of the system -/

/-- Two states with the same configuration, engines and reset input: all that the invariant reads. -/
structure SameSystem (s s' : State) : Prop where
  cfg : s'.cfg = s.cfg
  engines : s'.engines = s.engines
  inReset : s'.inReset = s.inReset

theorem SameSystem.engine {s s' : State} (h : SameSystem s s') (e : Nat) : s'.engine e = s.engine e := by
  simp [State.engine, h.engines]

/-- What one step can do to the system, up to its coming events, its target and its history. -/
inductive Change (s : State) : State → Prop where
  | same : Change s s
  | reset {on rest} : s.inputs = .reset on :: rest → Change s (s.resetAll on)
  | param {addr e r v rest} : s.inReset = false → s.inputs = .hostWrite addr 4 v :: rest →
      locate s.cfg addr = some (e, 0x10 + 4 * r.place.val) → Change s (s.modifyEngine e fun g => g.setParam r v)
  | acknowledged {e} : s.inReset = false → Change s (s.acknowledge e)
  | dropped {e g c} : s.inReset = false → s.engine e = some g → Change s (s.raise e g c)
  | accepted {s0 g i s1} : s.inReset = false → SameSystem s s0 → Acceptance s0 g i s1 → Change s s1
  | answered {e g r a} : s.inReset = false → s.engine e = some g → g.port = .waiting r → answers r a = true →
      Change s (s.setEngine e { g with port := .answered r (a.cut (s.cfg.pixelBits e)) })
  | stepped {s0 e s1} : SameSystem s s0 → ownMove s e → engineStep s0 e = some (.next s1) → Change s s1

/-- A word presented in the same system. -/
theorem presentWord_change {s s0 s' : State} {e : Nat} {w : Word} (h0 : SameSystem s s0) (hr : s.inReset = false)
    (h : presentWord s0 e w = .next s') : ∃ s1, Change s s1 ∧ SameSystem s1 s' := by
  obtain ⟨g, hg, rfl | ⟨c, rfl⟩ | ⟨i, -, ha⟩⟩ := presentWord_eq_next h
  · exact ⟨s, .same, h0.cfg, h0.engines, h0.inReset⟩
  · refine ⟨s.raise e g c, .dropped hr (h0.engine e ▸ hg), h0.cfg, ?_, h0.inReset⟩
    simp [h0.engines]
  · have ht : SameSystem s { s0 with target := e } := ⟨h0.cfg, h0.engines, h0.inReset⟩
    exact ⟨s', .accepted hr ht ha, rfl, rfl, rfl⟩

theorem SameSystem.modifyEngine {s s0 : State} (h0 : SameSystem s s0) (e : Nat) (f : Engine → Engine) :
    SameSystem (s.modifyEngine e f) (s0.modifyEngine e f) :=
  ⟨h0.cfg, by simp [h0.engines], h0.inReset⟩

/-- A register write in the same system (20_memory R62). -/
theorem writeReg_change {s s0 : State} {addr e off : Nat} {v : Word} {rest : List Event} (h0 : SameSystem s s0)
    (hr : s.inReset = false) (hin : s.inputs = .hostWrite addr 4 v :: rest)
    (hl : locate s.cfg addr = some (e, off)) : ∃ s1, Change s s1 ∧ SameSystem s1 (writeReg s0 e off v) := by
  unfold writeReg
  cases hp : paramAt off with
  | some r => exact ⟨_, .param hr hin (paramAt_eq_some hp ▸ hl), h0.modifyEngine _ _⟩
  | none =>
    simp only
    split
    · exact ⟨_, .acknowledged hr, h0.modifyEngine _ _⟩
    · exact ⟨s, .same, h0⟩

/-- A host write in the same system: nothing while reset is asserted, else a command word or a register write. -/
theorem hostWrite_change {s s0 s' : State} {addr width : Nat} {v : Word} {rest : List Event} (h0 : SameSystem s s0)
    (hin : s.inputs = .hostWrite addr width v :: rest) (h : hostWrite s0 addr width v = .next s') :
    ∃ s1, Change s s1 ∧ SameSystem s1 s' := by
  obtain ⟨e, off, hl, rfl, -, ha⟩ := hostAccess_eq_next h
  rw [h0.cfg] at hl
  have hlog : SameSystem s (s0.log (.hostWrote e off v)) := ⟨h0.cfg, h0.engines, h0.inReset⟩
  simp only [h0.inReset] at ha
  split at ha
  · obtain rfl := Host.Outcome.next.inj ha
    exact ⟨s, .same, hlog⟩
  · rename_i hr
    have hr : s.inReset = false := by simpa using hr
    split at ha
    · exact presentWord_change hlog hr ha
    · obtain rfl := Host.Outcome.next.inj ha
      exact writeReg_change hlog hr hin hl

/-- A read changes only the history, and what goes on after it. -/
theorem hostReadThen_same {s s' : State} {addr width : Nat} {after : Word → State → State}
    (hafter : ∀ v s1, SameSystem s s1 → SameSystem s (after v s1)) (h : hostReadThen s addr width after = .next s') :
    SameSystem s s' := by
  obtain ⟨e, off, -, -, -, ha⟩ := hostAccess_eq_next h
  cases hg : s.engine e with
  | none => simp [hg] at ha
  | some g =>
    simp only [hg, Host.Outcome.next.injEq] at ha
    subst ha
    exact hafter _ _ ⟨rfl, rfl, rfl⟩

/-- An engine's turn in the same system: its step, or nothing. -/
theorem runEngine_change {s s0 s' : State} {e : Nat} (h0 : SameSystem s s0) (hm : s.inReset = false → ownMove s e)
    (h : runEngine s0 e = .next s') : ∃ s1, Change s s1 ∧ SameSystem s1 s' := by
  unfold runEngine at h
  split at h
  · obtain rfl := Host.Outcome.next.inj h
    exact ⟨s, .same, h0⟩
  · rename_i hr
    cases hs : engineStep s0 e with
    | none =>
      simp only [hs, Option.getD_none, Host.Outcome.next.injEq] at h
      subst h
      exact ⟨s, .same, h0⟩
    | some r =>
      simp only [hs, Option.getD_some] at h
      subst h
      exact ⟨s', .stepped h0 (hm (by simpa [h0.inReset] using hr)) hs, rfl, rfl, rfl⟩

theorem SameSystem.trans {s s1 s2 : State} (h : SameSystem s s1) (h' : SameSystem s1 s2) : SameSystem s s2 :=
  ⟨h'.cfg.trans h.cfg, h'.engines.trans h.engines, h'.inReset.trans h.inReset⟩

/-- An agent's answer in the same system, with reset released. -/
theorem answer_change {s s0 : State} {e : Nat} {a : Response} (h0 : SameSystem s s0) (hr : s.inReset = false) :
    ∃ s1, Change s s1 ∧ SameSystem s1 (s0.answer e a) := by
  rcases answer_cases s0 e a with hs | ⟨g, r, hg, hp, ha, hs⟩ <;> rw [hs]
  · exact ⟨s, .same, h0⟩
  · refine ⟨_, .answered hr (h0.engine e ▸ hg) hp ha, h0.cfg, ?_, h0.inReset⟩
    simp [h0.engines, h0.cfg]

/-- Everything one event can do, taken from the coming ones of the same system. -/
theorem applyEvent_change {s s0 s' : State} {ev : Event} {rest : List Event} (h0 : SameSystem s s0)
    (hin : s.inputs = ev :: rest) (h : applyEvent s0 ev = .next s') : ∃ s1, Change s s1 ∧ SameSystem s1 s' := by
  cases ev with
  | hostWrite addr width v => exact hostWrite_change h0 hin h
  | hostRead addr width =>
    exact ⟨s, .same, h0.trans (hostReadThen_same (fun _ _ hs => hs) h)⟩
  | hostWait addr =>
    simp only [applyEvent, hostWait] at h
    refine ⟨s, .same, h0.trans (hostReadThen_same (fun v s1 hs => ?_) h)⟩
    split
    · exact ⟨hs.cfg, hs.engines, hs.inReset⟩
    · exact hs
  | engine e => exact runEngine_change h0 (fun hr => ⟨hr, .inl ⟨rest, hin⟩⟩) h
  | answer e a =>
    obtain rfl := Host.Outcome.next.inj h
    cases hr : s.inReset with
    | true => exact ⟨s, .same, by simpa [h0.inReset, hr] using h0⟩
    | false => simpa [h0.inReset, hr] using answer_change h0 hr
  | reset on =>
    obtain rfl := Host.Outcome.next.inj h
    exact ⟨_, .reset hin, h0.cfg, by simp [h0.engines], rfl⟩

/-- Everything one step of the system can do. -/
theorem step_change {s s' : State} (h : step s = .next s') : ∃ s1, Change s s1 ∧ SameSystem s1 s' := by
  unfold step nextStep at h
  split at h
  · rename_i hin
    unfold drain at h
    split at h
    · rename_i e he
      exact runEngine_change ⟨rfl, rfl, rfl⟩ (fun hr => ⟨hr, .inr ⟨hin, he⟩⟩) h
    · obtain rfl := Host.Outcome.next.inj h
      exact ⟨s, .same, rfl, rfl, rfl⟩
  · rename_i ev rest hin
    have h0 : SameSystem s { s with inputs := rest } := ⟨rfl, rfl, rfl⟩
    exact applyEvent_change h0 hin h

/-! ## One engine in one step of the system -/

/-- What one step of the system can do to engine `e`, from `g`. -/
inductive EngineChange (s : State) (e : Nat) (g : Engine) : Engine → Prop where
  | same : EngineChange s e g g
  | reset {on rest} : s.inputs = .reset on :: rest → EngineChange s e g g.resetAgain
  | param {addr r v rest} : s.inputs = .hostWrite addr 4 v :: rest →
      locate s.cfg addr = some (e, 0x10 + 4 * r.place.val) → EngineChange s e g (g.setParam r v)
  | acknowledged : EngineChange s e g g.acknowledge
  | dropped (c) : EngineChange s e g (g.raise c)
  | cleared : g.busy = false → EngineChange s e g (startClear (s.cfg.pixelBits e) g)
  | rastered {g'} : g.busy = false → startRaster e g = .ok g' → EngineChange s e g g'
  | wrote {g'} : g.busy = false → startWrite e g = .ok g' → EngineChange s e g g'
  | mapping (src) : g.busy = false → EngineChange s e g (startMap src g)
  | locked : g.busy = false → EngineChange s e g g.lock
  | answered {r a} : g.port = .waiting r → answers r a = true → EngineChange s e g { g with port := .answered r a }
  | stepped {g'} : ownMove s e → localStep (s.cfg.pixelBits e) e g = some (.ok g') → EngineChange s e g g'
  | mapped {m p t i t' i'} : ownMove s e → g.seq = .mMap t i → laneAfter t i = some (t', i') →
      EngineChange s e g { mapWritten (s.cfg.pixelBits e) m p t i g with seq := .mMap t' i' }
  | mapEnded {m p t i} (l : Bool) : ownMove s e → g.seq = .mMap t i → laneAfter t i = none →
      EngineChange s e g { (mapWritten (s.cfg.pixelBits e) m p t i g).finish with locked := l }
  | unlocked : EngineChange s e g g.unlock

/-- Engine `e` after engine `d` was replaced is its own old self or the replacement. -/
theorem setEngine_cases {s : State} {d e : Nat} {gd g g' : Engine} (hg : s.engine e = some g)
    (h : (s.setEngine d gd).engine e = some g') : (d = e ∧ g' = gd) ∨ (d ≠ e ∧ g' = g) := by
  rw [State.engine_setEngine] at h
  split at h
  · exact .inl ⟨‹_›, by simpa [hg, eq_comm] using h⟩
  · exact .inr ⟨‹_›, by simpa [hg, eq_comm] using h⟩

theorem modifyEngine_cases {s : State} {d e : Nat} {f : Engine → Engine} {g g' : Engine} (hg : s.engine e = some g)
    (h : (s.modifyEngine d f).engine e = some g') : (d = e ∧ g' = f g) ∨ (d ≠ e ∧ g' = g) := by
  rw [State.engine_modifyEngine] at h
  split at h
  · exact .inl ⟨‹_›, by simpa [hg, eq_comm] using h⟩
  · exact .inr ⟨‹_›, by simpa [hg, eq_comm] using h⟩

/-- An acceptance changes its engine as the command says, and a MAP's source by the lock. -/
theorem acceptance_engineChange {s s0 s1 : State} {i : Instr} {ga g g' : Engine} {e : Nat} (h0 : SameSystem s s0)
    (h : Acceptance s0 ga i s1) (hg : s0.engine e = some g) (hg' : s1.engine e = some g') :
    EngineChange s e g g' := by
  obtain ⟨ht, -, hb, -, hres⟩ := h
  have self : s0.target = e → ga = g := by rintro rfl; exact Option.some.inj (ht.symm.trans hg)
  cases hres with
  | clear =>
    rcases setEngine_cases hg hg' with ⟨he, rfl⟩ | ⟨-, rfl⟩
    · obtain rfl := self he
      rw [he, h0.cfg]; exact .cleared hb
    · exact .same
  | raster _ hr =>
    rw [steppedTo_engine] at hg'
    rcases setEngine_cases hg hg' with ⟨he, rfl⟩ | ⟨-, rfl⟩
    · obtain rfl := self he
      exact .rastered hb (he ▸ hr)
    · exact .same
  | write _ hr =>
    rw [steppedTo_engine] at hg'
    rcases setEngine_cases hg hg' with ⟨he, rfl⟩ | ⟨-, rfl⟩
    · obtain rfl := self he
      exact .wrote hb (he ▸ hr)
    · exact .same
  | @map src a _ hne ha _ _ _ hab _ =>
    by_cases he : src = e
    · subst he
      obtain rfl := Option.some.inj (ha.symm.trans hg)
      rw [← State.engine_setEngine_ne _ _ _ (startMap src ga) hne.symm] at ha
      rw [State.engine_setEngine_self _ _ _ _ ha] at hg'
      obtain rfl := Option.some.inj hg'
      exact .locked hab
    · rw [State.engine_setEngine_ne _ _ _ _ he] at hg'
      rcases setEngine_cases hg hg' with ⟨he, rfl⟩ | ⟨-, rfl⟩
      · obtain rfl := self he
        exact .mapping src hb
      · exact .same

/-- An engine's own step changes itself, and at a MAP's end unlocks its source. -/
theorem engineStep_engineChange {s s0 s1 : State} {d e : Nat} {g g' : Engine} (h0 : SameSystem s s0)
    (hm : ownMove s d) (h : engineStep s0 d = some (.next s1)) (hg : s0.engine e = some g)
    (hg' : s1.engine e = some g') : EngineChange s e g g' := by
  obtain ⟨gd, hgd, ⟨g1, hl, rfl⟩ | ⟨t, i, hseq, hmap⟩⟩ := engineStep_eq_next h
  · rw [steppedTo_engine] at hg'
    rcases setEngine_cases hg hg' with ⟨rfl, rfl⟩ | ⟨-, rfl⟩
    · obtain rfl := Option.some.inj (hgd.symm.trans hg)
      exact .stepped hm (h0.cfg ▸ hl)
    · exact .same
  · obtain ⟨m, src, a, p, -, -, -, ⟨t', i', hnext, rfl⟩ | ⟨hend, rfl⟩⟩ := mapStep_eq_next.mp hmap
    · rcases setEngine_cases hg hg' with ⟨rfl, rfl⟩ | ⟨-, rfl⟩
      · obtain rfl := Option.some.inj (hgd.symm.trans hg)
        rw [h0.cfg]; exact .mapped hm hseq hnext
      · exact .same
    · by_cases hde : d = e
      · subst hde
        obtain rfl := Option.some.inj (hgd.symm.trans hg)
        rcases modifyEngine_cases (State.engine_setEngine_self _ _ _ _ hgd) hg' with ⟨-, rfl⟩ | ⟨-, rfl⟩
        · rw [h0.cfg]; exact .mapEnded false hm hseq hend
        · rw [h0.cfg]; exact .mapEnded gd.locked hm hseq hend
      · rw [← State.engine_setEngine_ne _ _ _ (mapWritten (s0.cfg.pixelBits d) m p t i gd).finish hde] at hg
        rcases modifyEngine_cases hg hg' with ⟨-, rfl⟩ | ⟨-, rfl⟩
        · exact .unlocked
        · exact .same

/-- Everything one step of the system can do to one engine. -/
theorem step_engineChange {s s' : State} {e : Nat} {g g' : Engine} (h : step s = .next s')
    (hg : s.engine e = some g) (hg' : s'.engine e = some g') : EngineChange s e g g' := by
  obtain ⟨s1, hc, hs⟩ := step_change h
  rw [hs.engine] at hg'
  cases hc with
  | same => obtain rfl := Option.some.inj (hg.symm.trans hg'); exact .same
  | reset hin =>
    rw [State.engine_resetAll, hg] at hg'
    obtain rfl := Option.some.inj hg'
    exact .reset hin
  | param _ hin hl =>
    rcases modifyEngine_cases hg hg' with ⟨rfl, rfl⟩ | ⟨-, rfl⟩
    · exact .param hin hl
    · exact .same
  | acknowledged =>
    rcases modifyEngine_cases hg hg' with ⟨rfl, rfl⟩ | ⟨-, rfl⟩
    · exact .acknowledged
    · exact .same
  | dropped _ hd =>
    rcases setEngine_cases hg hg' with ⟨rfl, rfl⟩ | ⟨-, rfl⟩
    · obtain rfl := Option.some.inj (hd.symm.trans hg)
      exact .dropped _
    · exact .same
  | accepted _ h0 ha => exact acceptance_engineChange h0 ha (h0.engine e ▸ hg) hg'
  | answered _ hd hp ha =>
    rcases setEngine_cases hg hg' with ⟨rfl, rfl⟩ | ⟨-, rfl⟩
    · obtain rfl := Option.some.inj (hd.symm.trans hg)
      exact .answered hp (by rw [cut_answers]; exact ha)
    · exact .same
  | stepped h0 hm hstep => exact engineStep_engineChange h0 hm hstep (h0.engine e ▸ hg) hg'

end Sys2Proof.Machine
end

section
/-! What each kind of step leaves unchanged, and the statements on who writes what. -/
namespace Sys2Proof.Machine

/-! ## What sequencing leaves unchanged -/

/-- The steps that only move the sequencer leave the buffers, the parameter registers, INIT and LOCKED as they are, and
never enter a MAP. -/
structure Sequenced (g g' : Engine) : Prop where
  depth : g'.depth = g.depth
  color : g'.color = g.color
  params : g'.params = g.params
  valid : g'.valid = g.valid
  init : g'.init = g.init
  locked : g'.locked = g.locked
  noMap : ∀ t i, g'.seq ≠ .mMap t i

theorem finish_sequenced (g : Engine) : Sequenced g g.finish := by
  constructor <;> simp

theorem enterTile_sequenced {e : Nat} {t : Tile} {g g' : Engine} (h : enterTile e t g = .ok g') : Sequenced g g' := by
  obtain ⟨a, -, rfl⟩ := (enterTile_eq_ok ..).mp h
  constructor <;> simp

theorem nextTile_sequenced {e : Nat} {t : Tile} {g g' : Engine} (h : nextTile e t g = .ok g') : Sequenced g g' := by
  rcases (nextTile_eq_ok ..).mp h with ⟨-, rfl⟩ | ⟨t', -, h⟩
  · exact finish_sequenced g
  · exact enterTile_sequenced h

theorem advanceIter_sequenced {e : Nat} {t : Tile} {g g' : Engine} (h : advanceIter e t g = .ok g') :
    Sequenced g g' := by
  obtain ⟨cur, -, ⟨-, h⟩ | ⟨-, a, w, u, v, -, -, -, -, rfl⟩⟩ := (advanceIter_eq_ok ..).mp h
  · exact nextTile_sequenced h
  · constructor <;> simp

theorem issuePush_sequenced {e : Nat} {k : Fin 1024} {g g' : Engine} (h : issuePush e k g = .ok g') :
    Sequenced g g' := by
  obtain ⟨ox, oy, n, p, -, -, rfl⟩ := (issuePush_eq_ok ..).mp h
  constructor <;> simp

theorem takeAck_sequenced {e : Nat} {g g' : Engine} (h : takeAck e g = .ok g') : Sequenced g g' := by
  obtain ⟨k, -, ⟨_, h⟩ | ⟨-, rfl⟩⟩ := (takeAck_eq_ok ..).mp h
  · exact issuePush_sequenced h
  · exact finish_sequenced g

theorem coverStep_sequenced {e : Nat} {t : Tile} {g g' : Engine} (h : coverStep e t g = .ok g') : Sequenced g g' := by
  obtain ⟨u, v, -, -, ⟨-, h⟩ | ⟨-, rfl⟩⟩ := (coverStep_eq_ok ..).mp h
  · obtain ⟨h1, h2, h3, h4, h5, h6, h7⟩ := nextTile_sequenced h
    exact ⟨h1, h2, h3, h4, h5, h6, h7⟩
  · constructor <;> simp

/-- The R_DEPTH step is DEPTHTEST's write of DEPTH, and sequencing. -/
theorem depthStep_sequenced {e : Nat} {t : Tile} {g g' : Engine} (h : depthStep e t g = .ok g') :
    ∃ d, Sequenced { g with depth := d } g' := by
  obtain ⟨g1, m, hd, -, h⟩ := (depthStep_eq_ok ..).mp h
  obtain ⟨a, w, u, v, mask, old, -, -, -, -, -, -, rfl⟩ := (depthTest_eq_ok ..).mp hd
  obtain ⟨h1, h2, h3, h4, h5, h6, h7⟩ := advanceIter_sequenced h
  exact ⟨_, h1, h2, h3, h4, h5, h6, h7⟩

/-- The R_BLEND step is the write of one COLOR element, and sequencing. -/
theorem takeBlend_sequenced {e : Nat} {t : Tile} {i : Lane} {p : Pixel} {g g' : Engine}
    (h : takeBlend e t i p g = .ok g') : Sequenced { g with color := writeLane g.color t i p } g' := by
  obtain ⟨h1, h2, h3, h4, h5, h6, h7⟩ := advanceIter_sequenced h
  exact ⟨h1, h2, h3, h4, h5, h6, h7⟩

theorem startRaster_sequenced {e : Nat} {g g' : Engine} (h : startRaster e g = .ok g') : Sequenced g g' := by
  obtain ⟨h1, h2, h3, h4, h5, h6, h7⟩ := enterTile_sequenced h
  exact ⟨h1, h2, h3, h4, h5, h6, h7⟩

theorem startWrite_sequenced {e : Nat} {g g' : Engine} (h : startWrite e g = .ok g') : Sequenced g g' := by
  obtain ⟨h1, h2, h3, h4, h5, h6, h7⟩ := issuePush_sequenced h
  exact ⟨h1, h2, h3, h4, h5, h6, h7⟩

/-! ## What an engine's own step leaves unchanged -/

/-- An engine's own step writes no parameter register, sets INIT only as CLEAR ends, and writes DEPTH and COLOR only at
the phases of 10_state R24 and R25. -/
structure MoveFrame (g g' : Engine) : Prop where
  params : g'.params = g.params
  valid : g'.valid = g.valid
  init : g'.init = g.init ∨ (g.seq = .clr ∧ g'.seq = .idle ∧ g'.busy = false ∧ g'.init = true)
  depth : g'.depth ≠ g.depth → g.seq = .clr ∨ ∃ t, g.seq = .rDepth t
  color : g'.color ≠ g.color → g.seq = .clr ∨ (∃ t i, g.seq = .rBlend t i) ∨ ∃ t i, g.seq = .mMap t i

theorem Sequenced.moveFrame {g g' : Engine} (h : Sequenced g g') : MoveFrame g g' :=
  ⟨h.params, h.valid, .inl h.init, fun hd => absurd h.depth hd, fun hc => absurd h.color hc⟩

/-- Everything a local step can be, by the phase. -/
theorem localStep_cases {pb e : Nat} {g : Engine} {r : Except Fault Engine} (h : localStep pb e g = some r) :
    (g.seq = .clr ∧ r = clearStep pb g) ∨
    (∃ t u v, g.seq = .rEval t ∧ g.port.evalAnswer = some (u, v) ∧ r = .ok (takeEval t u v g)) ∨
    (∃ t, g.seq = .rCover t ∧ r = coverStep e t g) ∨ (∃ t, g.seq = .rDepth t ∧ r = depthStep e t g) ∨
    (∃ t i a, g.seq = .rInterp t i ∧ g.port.interpAnswer = some a ∧ r = takeInterp t i a g) ∨
    (∃ t i p, g.seq = .rFrag t i ∧ g.port.fragAnswer = some p ∧ r = takeFrag t i p g) ∨
    (∃ t i p, g.seq = .rBlend t i ∧ g.port.blendAnswer = some p ∧ r = takeBlend e t i p g) ∨
    (∃ k, g.seq = .wPush k ∧ g.port.pushTaken = some () ∧ r = takeAck e g) := by
  unfold localStep at h
  cases hs : g.seq <;> simp only [hs, Option.map_eq_some_iff, Option.some.injEq, reduceCtorEq] at h
  case clr => exact .inl ⟨rfl, h.symm⟩
  case rEval t => obtain ⟨⟨u, v⟩, ha, rfl⟩ := h; exact .inr (.inl ⟨t, u, v, rfl, ha, rfl⟩)
  case rCover t => exact .inr (.inr (.inl ⟨t, rfl, h.symm⟩))
  case rDepth t => exact .inr (.inr (.inr (.inl ⟨t, rfl, h.symm⟩)))
  case rInterp t i => obtain ⟨a, ha, rfl⟩ := h; simp [ha]
  case rFrag t i => obtain ⟨p, ha, rfl⟩ := h; simp [ha]
  case rBlend t i => obtain ⟨p, ha, rfl⟩ := h; simp [ha]
  case wPush k => obtain ⟨x, ha, rfl⟩ := h; simp [ha]

/-- What a local step leaves unchanged. -/
theorem localStep_frame {pb e : Nat} {g g' : Engine} (h : localStep pb e g = some (.ok g')) :
    MoveFrame g g' ∧ g'.locked = g.locked ∧ ∀ t i, g'.seq ≠ .mMap t i := by
  rcases localStep_cases h with ⟨hs, h⟩ | ⟨t, u, v, hs, -, h⟩ | ⟨t, hs, h⟩ | ⟨t, hs, h⟩ | ⟨t, i, a, hs, -, h⟩ |
    ⟨t, i, p, hs, -, h⟩ | ⟨t, i, p, hs, -, h⟩ | ⟨k, hs, -, h⟩
  · obtain ⟨fill, -, rfl⟩ := (clearStep_eq_ok ..).mp h.symm
    exact ⟨⟨rfl, rfl, .inr ⟨hs, rfl, rfl, rfl⟩, fun _ => .inl hs, fun _ => .inl hs⟩, rfl, by simp⟩
  · obtain rfl := Except.ok.inj h
    exact ⟨⟨rfl, rfl, .inl rfl, (absurd rfl ·), (absurd rfl ·)⟩, rfl, by simp [takeEval]⟩
  · have hq := coverStep_sequenced h.symm
    exact ⟨hq.moveFrame, hq.locked, hq.noMap⟩
  · obtain ⟨d, hq⟩ := depthStep_sequenced h.symm
    exact ⟨⟨hq.params, hq.valid, .inl hq.init, fun _ => .inr ⟨t, hs⟩, fun hc => absurd hq.color hc⟩,
      hq.locked, hq.noMap⟩
  · obtain ⟨a, -, rfl⟩ := (takeInterp_eq_ok ..).mp h.symm
    exact ⟨⟨rfl, rfl, .inl rfl, (absurd rfl ·), (absurd rfl ·)⟩, rfl, by simp⟩
  · obtain ⟨a, old, -, -, rfl⟩ := (takeFrag_eq_ok ..).mp h.symm
    exact ⟨⟨rfl, rfl, .inl rfl, (absurd rfl ·), (absurd rfl ·)⟩, rfl, by simp⟩
  · have hq := takeBlend_sequenced h.symm
    exact ⟨⟨hq.params, hq.valid, .inl hq.init, fun hd => absurd hq.depth hd, fun _ => .inr (.inl ⟨t, i, hs⟩)⟩,
      hq.locked, hq.noMap⟩
  · have hq := takeAck_sequenced h.symm
    exact ⟨hq.moveFrame, hq.locked, hq.noMap⟩

/-! ## Who writes the stored state -/

/-- The buffers, the parameter registers and INIT are as they were. -/
structure SameStored (g g' : Engine) : Prop where
  depth : g'.depth = g.depth
  color : g'.color = g.color
  params : g'.params = g.params
  valid : g'.valid = g.valid
  init : g'.init = g.init

theorem Sequenced.stored {g g' : Engine} (h : Sequenced g g') : SameStored g g' :=
  ⟨h.depth, h.color, h.params, h.valid, h.init⟩

/-- What a step stores in an engine, by who acts: the reset input, a host write of a parameter register, the engine
itself, or nobody. -/
theorem EngineChange.stored {s : State} {e : Nat} {g g' : Engine} (h : EngineChange s e g g') :
    ((∃ on rest, s.inputs = .reset on :: rest) ∧ g' = g.resetAgain) ∨
    (∃ addr r v rest, s.inputs = .hostWrite addr 4 v :: rest ∧
      locate s.cfg addr = some (e, 0x10 + 4 * r.place.val) ∧ g' = g.setParam r v) ∨
    (ownMove s e ∧ MoveFrame g g') ∨ SameStored g g' := by
  cases h with
  | reset hin => exact .inl ⟨⟨_, _, hin⟩, rfl⟩
  | param hin hl => exact .inr (.inl ⟨_, _, _, _, hin, hl, rfl⟩)
  | stepped hm hl => exact .inr (.inr (.inl ⟨hm, (localStep_frame hl).1⟩))
  | mapped hm hs _ =>
    exact .inr (.inr (.inl ⟨hm, rfl, rfl, .inl rfl, (absurd rfl ·), fun _ => .inr (.inr ⟨_, _, hs⟩)⟩))
  | mapEnded l hm hs _ =>
    exact .inr (.inr (.inl ⟨hm, rfl, rfl, .inl rfl, (absurd rfl ·), fun _ => .inr (.inr ⟨_, _, hs⟩)⟩))
  | rastered _ hr => exact .inr (.inr (.inr (startRaster_sequenced hr).stored))
  | wrote _ hr => exact .inr (.inr (.inr (startWrite_sequenced hr).stored))
  | same | acknowledged | dropped | cleared | mapping | locked | answered | unlocked =>
    exact .inr (.inr (.inr ⟨rfl, rfl, rfl, rfl, rfl⟩))

/-- A flag that stays neither rises nor falls. -/
theorem no_edge {a b : Bool} {P Q : Prop} (h : a = b) :
    (a = true → b = false → P) ∧ (b = true → a = false → Q) := by
  subst h; cases a <;> simp

/-- Settles O49: INIT rises in the engine's own move at CLR, and falls by the reset input only. -/
theorem initOnlyByClear : Obligations.InitOnlyByClear := by
  intro s s' e g g' h hg hg'
  rcases (step_engineChange h hg hg').stored with ⟨hreset, rfl⟩ | ⟨_, _, _, _, -, -, rfl⟩ | ⟨-, hf⟩ | hs
  · exact ⟨fun h1 _ => by simp [Engine.resetAgain, Engine.reset] at h1, fun _ _ => hreset⟩
  · exact no_edge rfl
  · rcases hf.init with hi | ⟨hc, hidle, hb, hi⟩
    · exact no_edge hi
    · exact ⟨fun _ _ => ⟨hc, hidle, hb⟩, fun _ h0 => by simp [hi] at h0⟩
  · exact no_edge hs.init

/-- Settles O50: only the host's own write of a register stores into it, apart from reset. -/
theorem parametersByHostOnly : Obligations.ParametersByHostOnly := by
  intro s s' e g g' r h hg hg' hne
  rcases (step_engineChange h hg hg').stored with ⟨hreset, -⟩ | ⟨addr, r', v, rest, hin, hl, rfl⟩ | ⟨-, hf⟩ | hs
  · exact .inl hreset
  · have hr : r' = r := by
      by_contra hc
      simp [setParam_param, setParam_isValid, hc] at hne
    subst hr
    exact .inr ⟨addr, v, rest, hin, hl, by simp [setParam_param], by simp [setParam_isValid]⟩
  · simp [Engine.param, Engine.isValid, hf.params, hf.valid] at hne
  · simp [Engine.param, Engine.isValid, hs.params, hs.valid] at hne

/-- Settles O51: the buffers change in the engine's own move at the phases that write them, or by reset. -/
theorem bufferWriters : Obligations.BufferWriters := by
  intro s s' e g g' h hg hg'
  rcases (step_engineChange h hg hg').stored with ⟨hreset, -⟩ | ⟨_, _, _, _, -, -, rfl⟩ | ⟨hm, hf⟩ | hs
  · exact ⟨fun _ => .inl hreset, fun _ => .inl hreset⟩
  · simp
  · exact ⟨fun hd => .inr ⟨hm, hf.depth hd⟩, fun hc => .inr ⟨hm, hf.color hc⟩⟩
  · exact ⟨fun hd => absurd hs.depth hd, fun hc => absurd hs.color hc⟩

/-! ## The configuration, and the other engines -/

theorem Accepted.system {s s' : State} {g : Engine} {i : Instr} (h : Accepted s g i s') :
    s'.cfg = s.cfg ∧ s'.engines.length = s.engines.length ∧ s'.inReset = s.inReset := by
  cases h <;> simp

theorem engineStep_system {s s' : State} {e : Nat} (h : engineStep s e = some (.next s')) :
    s'.cfg = s.cfg ∧ s'.engines.length = s.engines.length ∧ s'.inReset = s.inReset := by
  obtain ⟨g, -, ⟨g', -, rfl⟩ | ⟨t, i, -, hmap⟩⟩ := engineStep_eq_next h
  · simp
  · obtain ⟨m, src, a, p, -, -, -, ⟨t', i', -, rfl⟩ | ⟨-, rfl⟩⟩ := mapStep_eq_next.mp hmap <;> simp

/-- Settles O52, over everything a step can do. -/
theorem configurationFixed : Obligations.ConfigurationFixed := by
  intro s s' h
  obtain ⟨s1, hc, hs⟩ := step_change h
  rw [hs.cfg, hs.engines]
  cases hc with
  | accepted _ h0 ha => rw [← h0.cfg, ← h0.engines]; exact ⟨ha.result.system.1, ha.result.system.2.1⟩
  | stepped h0 _ hstep =>
    rw [← h0.cfg, ← h0.engines]; exact ⟨(engineStep_system hstep).1, (engineStep_system hstep).2.1⟩
  | same | reset | param | acknowledged | dropped | answered => simp [State.acknowledge]

/-- MAP has no next lane exactly at the last one (44_commands R231). -/
theorem laneAfter_eq_none {t : Tile} {i : Lane} (h : laneAfter t i = none) : t = 15 ∧ i = 63 := by
  unfold laneAfter at h
  split at h
  · simp at h
  · simp only [Option.map_eq_none_iff, tileAfter] at h
    split at h
    · simp at h
    · exact ⟨Fin.ext (by simp; omega), Fin.ext (by simp; omega)⟩

/-- An engine's step changes another engine only as the source that a MAP's last step unlocks. -/
theorem engineStep_other {s s' : State} {d e : Nat} (hne : d ≠ e) (h : engineStep s d = some (.next s')) :
    s'.engine e = s.engine e ∨ ∃ g m, s.engine d = some g ∧ g.seq = .mMap 15 63 ∧
      g.snap.mapArgs = some (m, e) ∧ s'.engine e = (s.engine e).map Engine.unlock := by
  obtain ⟨g, hg, ⟨g', -, rfl⟩ | ⟨t, i, hseq, hmap⟩⟩ := engineStep_eq_next h
  · exact .inl (by simp [hne])
  · obtain ⟨m, src, a, p, hargs, -, -, ⟨t', i', -, rfl⟩ | ⟨hend, rfl⟩⟩ := mapStep_eq_next.mp hmap
    · exact .inl (by simp [hne])
    · obtain ⟨rfl, rfl⟩ := laneAfter_eq_none hend
      by_cases hs : src = e
      · subst hs
        exact .inr ⟨g, m, hg, hseq, hargs, by simp [hne]⟩
      · exact .inl (by simp [hne, hs])

/-- An acceptance changes another engine only as the source that a MAP locks. -/
theorem accepted_other {s s' : State} {g : Engine} {i : Instr} {e : Nat} (hne : s.target ≠ e)
    (h : Accepted s g i s') :
    s'.engine e = s.engine e ∨ (i = .map e ∧ s'.engine e = (s.engine e).map Engine.lock) := by
  cases h with
  | clear => exact .inl (by simp [hne])
  | raster => exact .inl (by simp [hne])
  | write => exact .inl (by simp [hne])
  | @map src a _ hsrc ha =>
    by_cases hs : src = e
    · subst hs
      refine .inr ⟨rfl, ?_⟩
      rw [State.engine_setEngine, if_pos rfl, State.engine_setEngine_ne _ _ _ _ hne, ha]
      rfl
    · exact .inl (by simp [hne, hs])

/-- Settles O53. -/
theorem enginesIndependent : Obligations.EnginesIndependent := by
  intro s s' d e hne
  refine ⟨engineStep_other hne.symm, fun w h => ?_, fun off v => ?_⟩
  · obtain ⟨g, -, rfl | ⟨c, rfl⟩ | ⟨i, hd, ha⟩⟩ := presentWord_eq_next h
    · exact .inl rfl
    · exact .inl (by simp [State.raise, hne.symm])
    · rcases accepted_other hne.symm ha.result with hs | ⟨rfl, hs⟩
      · exact .inl hs
      · exact .inr ⟨hd, hs⟩
  · unfold writeReg
    split
    · simp [hne.symm]
    · split
      · simp [State.acknowledge, hne.symm]
      · rfl

/-! ## Reset -/

theorem readLane_reset {α : Type} (t : Tile) (i : Lane) :
    readLane (Vector.replicate 16 (Vector.replicate 64 (none : Option α))) t i = none := by
  simp [readLane]

/-- An engine in reset holds 10_state R46's values. -/
theorem resetAgain_values (g : Engine) : resetValues g.resetAgain := by
  refine ⟨readLane_reset, readLane_reset, rfl, rfl, rfl, rfl, rfl, fun r => ?_, rfl, rfl⟩
  simp [Engine.resetAgain, Engine.reset, Engine.param, Engine.isValid]

/-- The first reset is a reset like any other. -/
theorem resetAgain_reset : Engine.reset.resetAgain = Engine.reset := rfl

theorem resetOn_engine {c : Platform} {e : Nat} {g : Engine} (h : (State.resetOn c).engine e = some g) :
    g = Engine.reset := by
  simp only [State.engine, State.resetOn, List.getElem?_map, Option.map_eq_some_iff] at h
  obtain ⟨-, -, rfl⟩ := h
  rfl

theorem readReg_id (c : Platform) (e : Nat) (g : Engine) : readReg c e g 0x0C = idWord e (c.pixelBits e) := rfl

/-- Settles O48. -/
theorem resetState : Obligations.ResetState := by
  refine ⟨fun s on rest hin => ?_, fun c e g hg => ?_, fun s s' hr h hno => ?_⟩
  · refine ⟨State.resetAll { s with inputs := rest } on, by simp [step, nextStep, hin, applyEvent], rfl, rfl, rfl,
      by simp, fun e g hg => ⟨?_, readReg_id _ e g⟩⟩
    rw [State.engine_resetAll] at hg
    obtain ⟨g0, -, rfl⟩ := Option.map_eq_some_iff.mp hg
    exact resetAgain_values g0
  · obtain rfl := resetOn_engine hg
    exact resetAgain_values Engine.reset
  · obtain ⟨s1, hc, hs⟩ := step_change h
    have hsame : s1 = s := by
      cases hc with
      | same => rfl
      | reset hin => exact absurd hin (hno _ _)
      | stepped _ hm _ => simp [hm.1] at hr
      | param h0 | acknowledged h0 | dropped h0 | accepted h0 | answered h0 => simp [h0] at hr
    subst hsame
    exact ⟨hs.inReset.trans hr, hs.engine⟩

/-- A reset engine meets the invariant of one engine. -/
theorem resetAgain_ok (pb e : Nat) (g : Engine) : EngineOk pb e g.resetAgain := by
  obtain ⟨-, hcolor, -, -, -, -, -, hparam, -, -⟩ := resetAgain_values g
  refine ⟨by simp [Engine.resetAgain, Engine.reset], by simp [Engine.resetAgain, Engine.reset],
    by simp [Engine.resetAgain, Engine.reset], by simp [Engine.resetAgain, Engine.reset],
    by simp [Engine.resetAgain, Engine.reset], fun t i p hp => ?_, by simp [Engine.resetAgain, Engine.reset],
    fun r _ => (hparam r).1, rfl⟩
  simp [hcolor t i] at hp

/-- A system whose engines have all just been reset meets the invariant. -/
theorem inv_reset {s : State} (hc : s.cfg.Wf) (hn : s.engines.length = s.cfg.numEngines)
    (hall : ∀ e g, s.engine e = some g → ∃ g0 : Engine, g = g0.resetAgain) : Inv s := by
  refine inv_allIdle hc hn (fun e g hg => ?_) fun _ e g hg => ?_ <;> obtain ⟨g0, rfl⟩ := hall e g hg
  · exact ⟨rfl, rfl, resetAgain_ok _ _ _⟩
  · exact resetAgain_values g0

/-- Settles O55. -/
theorem invAtReset : Obligations.InvAtReset := by
  have all : ∀ (c : Platform) (inputs : List Event), c.Wf → Inv { State.resetOn c with inputs := inputs } :=
    fun c inputs hc => inv_reset hc (by simp [State.resetOn, Platform.numEngines])
      fun e g hg => ⟨Engine.reset, (resetOn_engine hg).trans resetAgain_reset.symm⟩
  exact ⟨all, all Platform.vectors [] witness_InvAtReset⟩

end Sys2Proof.Machine
end

section
/-! Every local step of a good engine answers a good engine: one lemma per phase. -/
namespace Sys2Proof.Machine

/-! ## Pixels, buffers and ports -/

theorem fillPixel_fits {s : Snapshot} {pb : Nat} {p : Pixel} (h : s.fillPixel pb = some p) : pixelFits pb p := by
  simp only [Snapshot.fillPixel, bind, Option.bind_eq_some_iff, Option.some.injEq] at h
  obtain ⟨f0, -, f1, -, f2, -, f3, -, rfl⟩ := h
  exact narrow_idem pb _

theorem allWritten_fillBuffer {α : Type} (x : α) : allWritten (fillBuffer x) := fun t i => by simp

theorem allWritten_writeLane {α : Type} {b : Buffer α} (h : allWritten b) (t : Tile) (i : Lane) (x : α) :
    allWritten (writeLane b t i x) := fun t' i' => by
  rw [readLane_writeLane]
  split
  · rfl
  · exact h t' i'

theorem allWritten_writeTile {b : Buffer Binary32} (h : allWritten b) (t : Tile) (g : Grid) :
    allWritten (writeTile b t g) := fun t' i' => by
  rw [readLane_writeTile]
  split
  · rfl
  · exact h t' i'

/-- A pixel of the engine's width written into COLOR keeps what holds of the engine's registers and buffers. -/
theorem Base.writeColor {pb : Nat} {g : Engine} (b : Base pb g) (t : Tile) (i : Lane) {p : Pixel}
    (hp : pixelFits pb p) : Base pb { g with color := writeLane g.color t i p } := by
  refine ⟨b.codeIff, b.codeLe, fun hi => ⟨(b.written hi).1, allWritten_writeLane (b.written hi).2 t i p⟩,
    fun t' i' q hq => ?_, b.unsetZero⟩
  rw [readLane_writeLane] at hq
  split at hq
  · obtain rfl := Option.some.inj hq; exact hp
  · exact b.colorFits t' i' q hq

theorem blendAnswer_eq_some {port : PortState} {p : Pixel} (h : port.blendAnswer = some p) :
    ∃ r, port = .answered r (.blend p) := by
  unfold PortState.blendAnswer at h
  split at h
  · obtain rfl := Option.some.inj h; exact ⟨_, rfl⟩
  · cases h

/-! ## One lemma per phase -/

section
variable {pb e : Nat} {g : Engine}

/-- The end of CLEAR. -/
theorem clearStep_ok (h : EngineOk pb e g) (hs : g.seq = .clr) :
    ∃ g', clearStep pb g = .ok g' ∧ EngineOk pb e g' := by
  have hp := h.phase
  simp only [phaseOk, hs] at hp
  obtain ⟨fill, hfill⟩ := Option.isSome_iff_exists.mp hp.2
  refine ⟨_, (clearStep_eq_ok ..).mpr ⟨fill, hfill, rfl⟩, ?_⟩
  refine ok_of ⟨h.codeIff, h.codeLe, fun _ => ⟨allWritten_fillBuffer _, allWritten_fillBuffer _⟩, fun t i p hp => ?_,
    h.unsetZero⟩ (by simp) (by simp) (by simp) rfl
  obtain rfl : fill = p := by simpa using hp
  exact fillPixel_fits hfill

/-- A running command but CLEAR has BUSY and INIT set. -/
theorem EngineOk.running (h : EngineOk pb e g) (h1 : g.seq ≠ .idle) (h2 : g.seq ≠ .clr) :
    g.busy = true ∧ g.init = true := ⟨h.busyIff.mpr h1, h.runsInit h1 h2⟩

theorem takeEval_ok (h : EngineOk pb e g) {t : Tile} (hs : g.seq = .rEval t) (u v : Grid) :
    EngineOk pb e (takeEval t u v g) := by
  obtain ⟨hb, hi⟩ := h.running (by simp [hs]) (by simp [hs])
  have hp := h.phase
  simp only [phaseOk, hs] at hp
  obtain ⟨a, pt, ha, -, -⟩ := hp
  exact ok_of ⟨h.codeIff, h.codeLe, h.written, h.colorFits, h.unsetZero⟩ (by simp [takeEval, hb])
    (fun _ _ => hi) (by simp [takeEval]) ⟨rfl, by simp [takeEval, ha], rfl, rfl⟩

theorem coverStep_ok (h : EngineOk pb e g) {t : Tile} (hs : g.seq = .rCover t) :
    ∃ g', coverStep e t g = .ok g' ∧ EngineOk pb e g' := by
  obtain ⟨hb, hi⟩ := h.running (by simp [hs]) (by simp [hs])
  have hp := h.phase
  simp only [phaseOk, hs] at hp
  obtain ⟨hq, ha, hu, hv⟩ := hp
  obtain ⟨u, hu⟩ := Option.isSome_iff_exists.mp hu
  obtain ⟨v, hv⟩ := Option.isSome_iff_exists.mp hv
  simp only [coverStep_eq_ok]
  set w := coverW ⟨e, g.fpDraws⟩ u v
  by_cases h0 : coverMask w u v = 0
  · obtain ⟨g', hg', ok⟩ := nextTile_ok (pb := pb) (e := e)
      (g := { g with tr := { g.tr with w := some w, mask := some (coverMask w u v) }, fpDraws := g.fpDraws + coverOps })
      t ⟨h.codeIff, h.codeLe, h.written, h.colorFits, h.unsetZero⟩ hi hb ha
    exact ⟨g', ⟨u, v, hu, hv, .inl ⟨h0, hg'⟩⟩, ok⟩
  · refine ⟨_, ⟨u, v, hu, hv, .inr ⟨h0, rfl⟩⟩, ?_⟩
    exact ok_of ⟨h.codeIff, h.codeLe, h.written, h.colorFits, h.unsetZero⟩ (by simp [hb]) (fun _ _ => hi)
      (by simp [hq]) ⟨hq, ha, by simp [hu], by simp [hv], rfl, rfl⟩

/-- DEPTHTEST answers, and leaves all that ITER's advance needs. -/
theorem depthTest_ok (h : EngineOk pb e g) {t : Tile} (hs : g.seq = .rDepth t) :
    ∃ g1 m, depthTest e t g = .ok g1 ∧ g1.tr.mask = some m ∧ Base pb g1 ∧ g1.init = true ∧ g1.busy = true ∧
      g1.snap.rasterArgs.isSome = true ∧ g1.tr.w.isSome = true ∧ g1.tr.u.isSome = true ∧ g1.tr.v.isSome = true := by
  obtain ⟨hb, hi⟩ := h.running (by simp [hs]) (by simp [hs])
  have hp := h.phase
  simp only [phaseOk, hs] at hp
  obtain ⟨-, ha, hu, hv, hw, hm⟩ := hp
  obtain ⟨a, ha'⟩ := Option.isSome_iff_exists.mp ha
  obtain ⟨u, hu'⟩ := Option.isSome_iff_exists.mp hu
  obtain ⟨v, hv'⟩ := Option.isSome_iff_exists.mp hv
  obtain ⟨w, hw'⟩ := Option.isSome_iff_exists.mp hw
  obtain ⟨mask, hm'⟩ := Option.isSome_iff_exists.mp hm
  obtain ⟨hd, hc⟩ := h.written hi
  obtain ⟨old, hold⟩ := allWritten_readTile g.depth t hd
  exact ⟨_, _, (depthTest_eq_ok ..).mpr ⟨a, w, u, v, mask, old, ha', hw', hu', hv', hm', hold, rfl⟩, rfl,
    ⟨h.codeIff, h.codeLe, fun _ => ⟨allWritten_writeTile hd _ _, hc⟩, h.colorFits, h.unsetZero⟩,
    hi, hb, ha, hw, hu, hv⟩

theorem depthStep_ok (h : EngineOk pb e g) {t : Tile} (hs : g.seq = .rDepth t) :
    ∃ g', depthStep e t g = .ok g' ∧ EngineOk pb e g' := by
  obtain ⟨g1, m, hdepth, hm, b, hi, hb, ha, hw, hu, hv⟩ := depthTest_ok h hs
  obtain ⟨g', hg', ok⟩ := advanceIter_ok (e := e) (g := { g1 with tr := { g1.tr with cur := some m } }) t
    ⟨b.codeIff, b.codeLe, b.written, b.colorFits, b.unsetZero⟩ hi hb ha hw hu hv m m hm rfl (.inl rfl)
  exact ⟨g', (depthStep_eq_ok ..).mpr ⟨g1, m, hdepth, hm, hg'⟩, ok⟩

theorem takeInterp_ok (h : EngineOk pb e g) {t : Tile} {i : Lane} (hs : g.seq = .rInterp t i) (attr : Attr) :
    ∃ g', takeInterp t i attr g = .ok g' ∧ EngineOk pb e g' := by
  obtain ⟨hb, hi⟩ := h.running (by simp [hs]) (by simp [hs])
  have hp := h.phase
  simp only [phaseOk, hs] at hp
  obtain ⟨hdisp, a, w, u, v, ha, -⟩ := hp
  refine ⟨_, (takeInterp_eq_ok ..).mpr ⟨a, ha, rfl⟩, ?_⟩
  exact ok_of ⟨h.codeIff, h.codeLe, h.written, h.colorFits, h.unsetZero⟩ (by simp [hb]) (fun _ _ => hi) (by simp)
    ⟨hdisp, a, attr, ha, rfl, .inl rfl⟩

theorem takeFrag_ok (h : EngineOk pb e g) {t : Tile} {i : Lane} (hs : g.seq = .rFrag t i) (p : Pixel) :
    ∃ g', takeFrag t i p g = .ok g' ∧ EngineOk pb e g' := by
  obtain ⟨hb, hi⟩ := h.running (by simp [hs]) (by simp [hs])
  have hp := h.phase
  simp only [phaseOk, hs] at hp
  obtain ⟨hdisp, a, attr, ha, -⟩ := hp
  obtain ⟨old, hold⟩ := Option.isSome_iff_exists.mp ((h.written hi).2 t i)
  refine ⟨_, (takeFrag_eq_ok ..).mpr ⟨a, old, ha, hold, rfl⟩, ?_⟩
  exact ok_of ⟨h.codeIff, h.codeLe, h.written, h.colorFits, h.unsetZero⟩ (by simp [hb]) (fun _ _ => hi) (by simp)
    ⟨hdisp, a, old, p, ha, hold, rfl, .inl rfl⟩

theorem takeBlend_ok (h : EngineOk pb e g) {t : Tile} {i : Lane} {p : Pixel} (hs : g.seq = .rBlend t i)
    (hport : g.port.blendAnswer = some p) : ∃ g', takeBlend e t i p g = .ok g' ∧ EngineOk pb e g' := by
  obtain ⟨hb, hi⟩ := h.running (by simp [hs]) (by simp [hs])
  obtain ⟨r, hr⟩ := blendAnswer_eq_some hport
  have hfit : pixelFits pb p := Response.blend.inj (h.portFits r _ hr)
  have hp := h.phase
  simp only [phaseOk, hs] at hp
  obtain ⟨⟨hu, hv, hw, -, mask, cur, hm, hc, hit⟩, a, old, q, ha, -⟩ := hp
  obtain ⟨h1, h2, h3, h4, h5⟩ := h.base.writeColor t i hfit
  exact advanceIter_ok (g := { g with color := writeLane g.color t i p, port := .quiet }) t ⟨h1, h2, h3, h4, h5⟩
    hi hb (by simp [ha]) hw hu hv mask cur hm hc (.inr ⟨i, hit⟩)

/-- Push k is issued on an initialised engine whose origin and order are snapshotted. -/
theorem issuePush_ok (b : Base pb g) (hi : g.init = true) (hb : g.busy = true) (k : Fin 1024)
    (ha : g.snap.writeArgs.isSome = true) : ∃ g', issuePush e k g = .ok g' ∧ EngineOk pb e g' := by
  obtain ⟨⟨ox, oy, n⟩, ha⟩ := Option.isSome_iff_exists.mp ha
  obtain ⟨p, hp⟩ := Option.isSome_iff_exists.mp ((b.written hi).2 (writeOrder ⟨e, n⟩ k).1 (writeOrder ⟨e, n⟩ k).2)
  refine ⟨_, (issuePush_eq_ok ..).mpr ⟨ox, oy, n, p, ha, hp, rfl⟩, ?_⟩
  exact ok_of ⟨b.codeIff, b.codeLe, b.written, b.colorFits, b.unsetZero⟩ (by simp [hb]) (fun _ _ => hi) (by simp)
    ⟨ox, oy, n, p, ha, rfl, hp, .inl rfl⟩

theorem takeAck_ok (h : EngineOk pb e g) {k : Fin 1024} (hs : g.seq = .wPush k) :
    ∃ g', takeAck e g = .ok g' ∧ EngineOk pb e g' := by
  obtain ⟨hb, hi⟩ := h.running (by simp [hs]) (by simp [hs])
  have hp := h.phase
  simp only [phaseOk, hs] at hp
  obtain ⟨ox, oy, n, p, ha, hk, -⟩ := hp
  simp only [takeAck_eq_ok]
  by_cases hlt : k.val + 1 < 1024
  · obtain ⟨g', hg', ok⟩ := issuePush_ok (e := e) h.base hi hb ⟨k.val + 1, hlt⟩ (by simp [ha])
    exact ⟨g', ⟨k, hk, .inl ⟨hlt, hg'⟩⟩, ok⟩
  · exact ⟨_, ⟨k, hk, .inr ⟨hlt, rfl⟩⟩, finish_ok h.base⟩

/-- A local step of a good engine answers a good engine (60_exceptions R284). -/
theorem localStep_ok (h : EngineOk pb e g) {r : Except Fault Engine} (hr : localStep pb e g = some r) :
    ∃ g', r = .ok g' ∧ EngineOk pb e g' := by
  rcases localStep_cases hr with ⟨hs, rfl⟩ | ⟨t, u, v, hs, -, rfl⟩ | ⟨t, hs, rfl⟩ | ⟨t, hs, rfl⟩ |
    ⟨t, i, a, hs, -, rfl⟩ | ⟨t, i, p, hs, -, rfl⟩ | ⟨t, i, p, hs, hp, rfl⟩ | ⟨k, hs, -, rfl⟩
  · exact clearStep_ok h hs
  · exact ⟨_, rfl, takeEval_ok h hs u v⟩
  · exact coverStep_ok h hs
  · exact depthStep_ok h hs
  · exact takeInterp_ok h hs a
  · exact takeFrag_ok h hs p
  · exact takeBlend_ok h hs hp
  · exact takeAck_ok h hs

/-! ## Acceptance -/

theorem startClear_ok (h : EngineOk pb e g) : EngineOk pb e (startClear pb g) :=
  ok_of ⟨h.codeIff, h.codeLe, h.written, h.colorFits, h.unsetZero⟩ (by simp [startClear]) (by simp [startClear])
    (by simp [startClear]) ⟨rfl, by simp [startClear, fillPixel_capture]⟩

theorem startRaster_ok (h : EngineOk pb e g) (hi : g.init = true) :
    ∃ g', startRaster e g = .ok g' ∧ EngineOk pb e g' :=
  enterTile_ok (g := g.start { regs := g.capture usesRaster, src := none, order := none }) 0
    ⟨h.codeIff, h.codeLe, h.written, h.colorFits, h.unsetZero⟩ hi rfl
    (by rw [Engine.start_snap, rasterArgs_capture]; rfl)

theorem startWrite_ok (h : EngineOk pb e g) (hi : g.init = true) :
    ∃ g', startWrite e g = .ok g' ∧ EngineOk pb e g' :=
  issuePush_ok (g := { g.start { regs := g.capture usesWrite, src := none, order := some g.writeDraws } with
      writeDraws := g.writeDraws + 1 })
    ⟨h.codeIff, h.codeLe, h.written, h.colorFits, h.unsetZero⟩ hi rfl 0
    (by rw [Engine.start_snap, writeArgs_capture]; rfl)

theorem startMap_ok (h : EngineOk pb e g) (hi : g.init = true) {src : Nat} (hsrc : src < 256) :
    EngineOk pb e (startMap src g) :=
  ok_of ⟨h.codeIff, h.codeLe, h.written, h.colorFits, h.unsetZero⟩ (by simp [startMap]) (fun _ _ => hi)
    (by simp [startMap]) ⟨rfl, by simp [startMap, mapArgs_capture g src none hsrc]⟩

/-- An agent's answer to the waiting request (45_interfaces R250). -/
theorem answered_ok (h : EngineOk pb e g) {r : Request} {a : Response} (hp : g.port = .waiting r)
    (ha : answers r a = true) : EngineOk pb e { g with port := .answered r (a.cut pb) } := by
  refine ok_of ⟨h.codeIff, h.codeLe, h.written, h.colorFits, h.unsetZero⟩ h.busyIff h.runsInit
    (fun r' a' heq => ?_) ?_
  · obtain ⟨rfl, rfl⟩ := PortState.answered.inj heq
    exact cut_idem pb a
  · have hold : ∀ r', portHolds g.port r' → portHolds (.answered r (a.cut pb)) r' := by
      rintro r' (h1 | ⟨b, -, h1⟩) <;> rw [hp] at h1
      · obtain rfl := PortState.waiting.inj h1
        exact .inr ⟨_, by rw [cut_answers]; exact ha, rfl⟩
      · cases h1
    have hph := h.phase
    unfold phaseOk at hph ⊢
    cases hs : g.seq <;> simp only [hs] at hph ⊢
    case idle => simp [hp] at hph
    case clr | rCover | rDepth | mMap => simp [hp] at hph
    case rEval t => obtain ⟨x, pt, hx, hpt, hport⟩ := hph; exact ⟨x, pt, hx, hpt, hold _ hport⟩
    case rInterp t i =>
      obtain ⟨hd, x, w, u, v, hx, hw, hu, hv, hport⟩ := hph
      exact ⟨hd, x, w, u, v, hx, hw, hu, hv, hold _ hport⟩
    case rFrag t i => obtain ⟨hd, x, at', hx, hat, hport⟩ := hph; exact ⟨hd, x, at', hx, hat, hold _ hport⟩
    case rBlend t i =>
      obtain ⟨hd, x, old, p, hx, hold', hn, hport⟩ := hph
      exact ⟨hd, x, old, p, hx, hold', hn, hold _ hport⟩
    case wPush k =>
      obtain ⟨ox, oy, n, p, hx, hk, hl, hport⟩ := hph
      exact ⟨ox, oy, n, p, hx, hk, hl, hold _ hport⟩

theorem lock_ok (h : EngineOk pb e g) : EngineOk pb e g.lock :=
  ⟨h.busyIff, h.codeIff, h.codeLe, h.written, h.runsInit, h.colorFits, h.portFits, h.unsetZero,
    (phaseOk_congr rfl rfl rfl rfl rfl).mpr h.phase⟩

theorem unlock_ok (h : EngineOk pb e g) : EngineOk pb e g.unlock :=
  ⟨h.busyIff, h.codeIff, h.codeLe, h.written, h.runsInit, h.colorFits, h.portFits, h.unsetZero,
    (phaseOk_congr rfl rfl rfl rfl rfl).mpr h.phase⟩

/-- A MAP's destination after one more element, at any next lane. -/
theorem mapWritten_ok (h : EngineOk pb e g) {t : Tile} {i : Lane} (hs : g.seq = .mMap t i) (m : Word) (p : Pixel)
    (t' : Tile) (i' : Lane) : EngineOk pb e { mapWritten pb m p t i g with seq := .mMap t' i' } := by
  obtain ⟨hb, hi⟩ := h.running (by simp [hs]) (by simp [hs])
  have hp := h.phase
  simp only [phaseOk, hs] at hp
  obtain ⟨h1, h2, h3, h4, h5⟩ := h.base.writeColor t i (narrow_idem pb (Config.mapFn m p))
  exact ok_of ⟨h1, h2, h3, h4, h5⟩ (by simp [mapWritten, hb]) (fun _ _ => hi) (by simp [mapWritten, hp.1])
    ⟨hp.1, hp.2⟩

theorem mapFinished_ok (h : EngineOk pb e g) (m : Word) (p : Pixel) (t : Tile) (i : Lane) :
    EngineOk pb e (mapWritten pb m p t i g).finish :=
  finish_ok (h.base.writeColor t i (narrow_idem pb (Config.mapFn m p)))

end

end Sys2Proof.Machine
end

section
/-! Every step of the system keeps the invariant: the shared updates, MAP's acceptance and MAP's step. -/
namespace Sys2Proof.Machine

theorem SameSystem.inv {s s' : State} (h : SameSystem s s') (hi : Inv s) : Inv s' :=
  inv_congr h.cfg h.engines (fun hr => h.inReset ▸ hr) hi

/-! ## Updates of one engine that leave MAP's ties alone -/

/-- A good replacement that keeps COLOR, INIT, LOCKED, SEQ and the snapshot keeps the invariant. -/
theorem inv_update_aside {s : State} {e : Nat} {g g' : Engine} (h : Inv s) (hr : s.inReset = false)
    (hg : s.engine e = some g) (ok : EngineOk (s.cfg.pixelBits e) e g') (hcolor : g'.color = g.color)
    (hinit : g'.init = g.init) (hlocked : g'.locked = g.locked) (hseq : g'.seq = g.seq) (hsnap : g'.snap = g.snap) :
    Inv (s.setEngine e g') :=
  inv_update h hg ok (fun _ _ hm => ⟨hseq.trans hm, hsnap, hcolor⟩) (fun _ _ hm => hseq ▸ hm) hlocked
    (fun _ => ⟨hcolor, hinit, hseq⟩) hr

/-- A good replacement of an unlocked engine, with no MAP before or after, keeps the invariant. -/
theorem inv_update_unlocked {s : State} {e : Nat} {g g' : Engine} (h : Inv s) (hr : s.inReset = false)
    (hg : s.engine e = some g) (ok : EngineOk (s.cfg.pixelBits e) e g') (hlocked : g.locked = false)
    (hlocked' : g'.locked = g.locked) (hseq : ∀ t i, g.seq ≠ .mMap t i) (hseq' : ∀ t i, g'.seq ≠ .mMap t i) :
    Inv (s.setEngine e g') :=
  inv_update h hg ok (fun t i hm => absurd hm (hseq t i)) (fun t i hm => absurd hm (hseq' t i)) hlocked'
    (fun hl => by simp [hlocked] at hl) hr

/-- Changing one engine, if the state holds it, keeps the invariant when its replacement does. -/
theorem inv_modify {s : State} {e : Nat} {f : Engine → Engine} (h : Inv s)
    (hf : ∀ g, s.engine e = some g → Inv (s.setEngine e (f g))) : Inv (s.modifyEngine e f) := by
  cases hg : s.engine e with
  | none => rw [modify_none hg]; exact h
  | some g => rw [modify_eq_set hg]; exact hf g hg

/-! ## MAP's ties between engines -/

/-- An idle engine runs no MAP. -/
theorem not_mapsFrom_of_not_map {s : State} {d src : Nat} {m : Word} {t : Tile} {i : Lane} {g : Engine}
    (hg : s.engine d = some g) (hseq : ∀ t i, g.seq ≠ .mMap t i) : ¬ mapsFrom s d src m t i := by
  rintro ⟨g', hg', hm, -⟩
  obtain rfl := Option.some.inj (hg.symm.trans hg')
  exact hseq t i hm

/-- A MAP depends on its own engine only. -/
theorem mapsFrom_congr {s s' : State} {d : Nat} (h : s'.engine d = s.engine d) (src : Nat) (m : Word) (t : Tile)
    (i : Lane) : mapsFrom s' d src m t i ↔ mapsFrom s d src m t i := by
  simp [mapsFrom, h]

/-- A MAP's source, destination and selector are the ones of its snapshot. -/
theorem mapsFrom_iff {s : State} {d src : Nat} {m : Word} {t : Tile} {i : Lane} {g : Engine}
    (hg : s.engine d = some g) : mapsFrom s d src m t i ↔ g.seq = .mMap t i ∧ g.snap.mapArgs = some (m, src) := by
  simp [mapsFrom, hg]

/-- What `Inv` says of one running MAP. -/
def tied (s : State) (d src : Nat) (m : Word) (t : Tile) (i : Lane) : Prop :=
  src ≠ d ∧ s.cfg.signature m = some (s.cfg.pixelBits src, s.cfg.pixelBits d) ∧
    ∃ g a, s.engine d = some g ∧ s.engine src = some a ∧ a.locked = true ∧ a.init = true ∧
      mappedBefore (s.cfg.pixelBits d) m a.color g.color t i

/-- A MAP whose two engines stay as they are stays tied. -/
theorem tied_congr {s s' : State} {d src : Nat} {m : Word} {t : Tile} {i : Lane} (hc : s'.cfg = s.cfg)
    (hd : s'.engine d = s.engine d) (hs : s'.engine src = s.engine src) (h : tied s d src m t i) :
    tied s' d src m t i := by
  simpa [tied, hc, hd, hs] using h

/-- A MAP's destination is running, so it is no other MAP's source. -/
theorem source_ne_of_running {s : State} (h : Inv s) {e d src : Nat} {m : Word} {t : Tile} {i : Lane} {g : Engine}
    (hg : s.engine e = some g) (hl : g.locked = false) (hm : mapsFrom s d src m t i) : e ≠ src := by
  rintro rfl
  obtain ⟨-, -, -, a, -, ha, hal, -⟩ := h.source d e m t i hm
  obtain rfl := Option.some.inj (hg.symm.trans ha)
  simp [hl] at hal

/-! ## A destination and its source replaced -/

section
variable {s : State} {d src : Nat} {g a x y : Engine}

/-- What each engine is after a destination and its source were replaced. -/
theorem engine_setTwo_cases (hg : s.engine d = some g) (ha : s.engine src = some a) (hne : src ≠ d) {e : Nat}
    {z : Engine} (hz : ((s.setEngine d x).setEngine src y).engine e = some z) :
    (e = d ∧ z = x) ∨ (e = src ∧ z = y) ∨ (e ≠ d ∧ e ≠ src ∧ s.engine e = some z) := by
  rw [State.engine_setEngine, State.engine_setEngine] at hz
  by_cases h1 : src = e
  · subst h1
    simp only [↓reduceIte, if_neg hne.symm, ha, Option.map_some, Option.some.injEq] at hz
    exact .inr (.inl ⟨rfl, hz.symm⟩)
  · by_cases h2 : d = e
    · subst h2
      simp only [↓reduceIte, if_neg h1, hg, Option.map_some, Option.some.injEq] at hz
      exact .inl ⟨rfl, hz.symm⟩
    · rw [if_neg h1, if_neg h2] at hz
      exact .inr (.inr ⟨Ne.symm h2, Ne.symm h1, hz⟩)

theorem engine_setTwo_dest (hg : s.engine d = some g) (hne : src ≠ d) :
    ((s.setEngine d x).setEngine src y).engine d = some x := by
  rw [State.engine_setEngine_ne _ _ _ _ hne, State.engine_setEngine_self _ _ _ _ hg]

theorem engine_setTwo_source (ha : s.engine src = some a) (hne : src ≠ d) :
    ((s.setEngine d x).setEngine src y).engine src = some y :=
  State.engine_setEngine_self _ _ a _ (by rw [State.engine_setEngine_ne _ _ _ _ hne.symm, ha])

theorem engine_setTwo_other {e : Nat} (hd : e ≠ d) (hs : e ≠ src) :
    ((s.setEngine d x).setEngine src y).engine e = s.engine e := by
  rw [State.engine_setEngine_ne _ _ _ _ hs.symm, State.engine_setEngine_ne _ _ _ _ hd.symm]

/-- Two good replacements leave every engine good. -/
theorem each_setTwo (h : Inv s) (hg : s.engine d = some g) (ha : s.engine src = some a) (hne : src ≠ d)
    (hx : EngineOk (s.cfg.pixelBits d) d x) (hy : EngineOk (s.cfg.pixelBits src) src y) (e : Nat) (z : Engine)
    (hz : ((s.setEngine d x).setEngine src y).engine e = some z) : EngineOk (s.cfg.pixelBits e) e z := by
  rcases engine_setTwo_cases hg ha hne hz with ⟨rfl, rfl⟩ | ⟨rfl, rfl⟩ | ⟨-, -, hz⟩
  · exact hx
  · exact hy
  · exact h.each e z hz

/-- A MAP of the new state that is not the destination's ran before, and not on the source when that runs none. -/
theorem mapsFrom_setTwo_other {e src1 : Nat} {m : Word} {t : Tile} {i : Lane} (ha : s.engine src = some a)
    (hne : src ≠ d) (hy : ∀ t i, y.seq ≠ .mMap t i) (hd : e ≠ d)
    (hm : mapsFrom ((s.setEngine d x).setEngine src y) e src1 m t i) : e ≠ src ∧ mapsFrom s e src1 m t i := by
  have hs : e ≠ src := by
    rintro rfl
    exact not_mapsFrom_of_not_map (engine_setTwo_source (x := x) ha hne) hy hm
  exact ⟨hs, (mapsFrom_congr (engine_setTwo_other hd hs) ..).mp hm⟩

/-! ## MAP's acceptance -/

/-- The MAP just accepted: its snapshot names the source and the selector, and it stands at the first lane. -/
theorem mapsFrom_startMap {s : State} {d src : Nat} {g : Engine} (hd : s.engine d = some (startMap src g))
    (hlt : src < 256) (src1 : Nat) (m : Word) (t : Tile) (i : Lane) :
    mapsFrom s d src1 m t i ↔ src1 = src ∧ m = g.param .mapId ∧ t = 0 ∧ i = 0 := by
  rw [mapsFrom_iff hd]
  simp only [startMap, Phase.mMap.injEq]
  rw [Engine.start_snap, mapArgs_capture g src none hlt]
  simp only [Option.some.injEq, Prod.mk.injEq]
  tauto

/-- MAP's acceptance keeps the invariant: the new MAP is tied to its source, which no MAP read before. -/
theorem inv_mapAccepted (h : Inv s) (hr : s.inReset = false) (hg : s.engine d = some g) (ha : s.engine src = some a)
    (hne : src ≠ d) (hsig : s.cfg.signature (g.param .mapId) = some (s.cfg.pixelBits src, s.cfg.pixelBits d))
    (hlt : src < 256) (hi : g.init = true) (hai : a.init = true) (hgidle : g.seq = .idle) (hgl : g.locked = false)
    (haidle : a.seq = .idle) (hal : a.locked = false) :
    Inv ((s.setEngine d (startMap src g)).setEngine src a.lock) := by
  have hd' := engine_setTwo_dest (x := startMap src g) (y := a.lock) hg hne
  have hsrc' := engine_setTwo_source (x := startMap src g) (y := a.lock) ha hne
  have hnew := mapsFrom_startMap hd' hlt
  have hback : ∀ {e src1 m t i}, e ≠ d → mapsFrom ((s.setEngine d (startMap src g)).setEngine src a.lock) e src1 m t i →
      e ≠ src ∧ mapsFrom s e src1 m t i := fun hed hm => mapsFrom_setTwo_other ha hne (by simp [haidle]) hed hm
  refine ⟨h.config, by simpa using h.count, each_setTwo h hg ha hne (startMap_ok (h.each d g hg) hi hlt)
    (lock_ok (h.each src a ha)), fun e src1 m t i hm => ?_, fun e z hz hl => ?_,
    fun e e' src1 m m' t t' i i' h1 h2 => ?_, fun hh => by simp [hr] at hh⟩
  · by_cases hed : e = d
    · subst hed
      obtain ⟨rfl, rfl, rfl, rfl⟩ := (hnew ..).mp hm
      exact ⟨hne, hsig, _, _, hd', hsrc', rfl, hai, fun t' i' hlt' => by simp [numberOfLane] at hlt'⟩
    · obtain ⟨hes, hm0⟩ := hback hed hm
      have h1 := source_ne_of_running h hg hgl hm0
      have h2 := source_ne_of_running h ha hal hm0
      exact tied_congr (s := s) rfl (engine_setTwo_other hed hes) (engine_setTwo_other h1.symm h2.symm)
        (h.source e src1 m t i hm0)
  · rcases engine_setTwo_cases hg ha hne hz with ⟨rfl, rfl⟩ | ⟨rfl, rfl⟩ | ⟨hed, hes, hz⟩
    · simp [startMap, hgl] at hl
    · exact ⟨haidle, d, _, 0, 0, (hnew ..).mpr ⟨rfl, rfl, rfl, rfl⟩⟩
    · obtain ⟨hidle, e1, m, t, i, hm⟩ := h.lockedIdle e z hz hl
      have h1 : e1 ≠ d := by rintro rfl; exact not_mapsFrom_of_not_map hg (by simp [hgidle]) hm
      have h2 : e1 ≠ src := by rintro rfl; exact not_mapsFrom_of_not_map ha (by simp [haidle]) hm
      exact ⟨hidle, e1, m, t, i, (mapsFrom_congr (engine_setTwo_other h1 h2) ..).mpr hm⟩
  · have clash : ∀ {e m t i}, e ≠ d → ¬ mapsFrom ((s.setEngine d (startMap src g)).setEngine src a.lock) e src m t i :=
      fun he hm => source_ne_of_running h ha hal (hback he hm).2 rfl
    by_cases hed : e = d <;> by_cases hed' : e' = d
    · exact hed.trans hed'.symm
    · subst hed
      obtain ⟨rfl, -⟩ := (hnew ..).mp h1
      exact absurd h2 (clash hed')
    · subst hed'
      obtain ⟨rfl, -⟩ := (hnew ..).mp h2
      exact absurd h1 (clash hed)
    · exact h.oneMap e e' src1 m m' t t' i i' (hback hed h1).2 (hback hed' h2).2

/-! ## MAP's step -/

/-- The lanes mapped before the next lane are those mapped before this one, and this one (42_tile R171). -/
theorem mappedBefore_next {pb : Nat} {m : Word} {source dest : Buffer Pixel} {t t' : Tile} {i i' : Lane} {p : Pixel}
    (h : mappedBefore pb m source dest t i) (hp : readLane source t i = some p)
    (hnext : laneAfter t i = some (t', i')) :
    mappedBefore pb m source (writeLane dest t i (mapPixel pb m p)) t' i' := by
  intro t1 i1 hlt
  have hnum := laneAfter_some hnext
  rw [readLane_writeLane]
  split
  · rename_i heq
    obtain ⟨rfl, rfl⟩ := heq
    simp [hp]
  · rename_i hne
    refine h t1 i1 ?_
    have hne' : (numberOfLane t1 i1).val ≠ (numberOfLane t i).val := fun hc =>
      hne ⟨(number_inj hc).1.symm, (number_inj hc).2.symm⟩
    have := Fin.lt_def.mp hlt
    exact Fin.lt_def.mpr (by omega)

/-- After a step to the next lane the same MAPs run, the destination's at its new lane. -/
theorem mapsFrom_mapNext {g' : Engine} {m : Word} {t t' : Tile} {i i' : Lane} (hg : s.engine d = some g)
    (hseq : g.seq = .mMap t i) (hargs : g.snap.mapArgs = some (m, src)) (hseq' : g'.seq = .mMap t' i')
    (hsnap : g'.snap = g.snap) (e src1 : Nat) (m1 : Word) :
    (∃ t1 i1, mapsFrom (s.setEngine d g') e src1 m1 t1 i1) ↔ ∃ t1 i1, mapsFrom s e src1 m1 t1 i1 := by
  by_cases hed : e = d
  · subst hed
    simp [mapsFrom_iff hg, mapsFrom_iff (State.engine_setEngine_self _ _ _ g' hg), hseq, hseq', hsnap, hargs]
  · simp [mapsFrom_congr (State.engine_setEngine_ne s d e g' (Ne.symm hed))]

/-- A MAP step to the next lane keeps the invariant: the destination's mapped lanes are one more. -/
theorem inv_mapNext (h : Inv s) (hr : s.inReset = false) {m : Word} {p : Pixel} {t t' : Tile} {i i' : Lane}
    (hg : s.engine d = some g) (hseq : g.seq = .mMap t i) (hargs : g.snap.mapArgs = some (m, src))
    (ha : s.engine src = some a) (hp : readLane a.color t i = some p) (hnext : laneAfter t i = some (t', i')) :
    Inv (s.setEngine d { mapWritten (s.cfg.pixelBits d) m p t i g with seq := .mMap t' i' }) := by
  have hgl : g.locked = false := notLocked_of_running h hg (by simp [hseq])
  set g' : Engine := { mapWritten (s.cfg.pixelBits d) m p t i g with seq := .mMap t' i' } with hg'
  have hd' : (s.setEngine d g').engine d = some g' := State.engine_setEngine_self _ _ _ _ hg
  have hother : ∀ {e}, e ≠ d → (s.setEngine d g').engine e = s.engine e := fun he =>
    State.engine_setEngine_ne _ _ _ _ he.symm
  have hmaps := mapsFrom_mapNext (g' := g') hg hseq hargs rfl rfl
  refine ⟨h.config, by simpa using h.count, fun e z hz => ?_, fun e src1 m1 t1 i1 hm => ?_, fun e z hz hl => ?_,
    fun e e' src1 m1 m1' t1 t1' i1 i1' h1 h2 => ?_, fun hh => by simp [hr] at hh⟩
  · by_cases hed : e = d
    · subst hed
      obtain rfl := Option.some.inj (hd'.symm.trans hz)
      exact mapWritten_ok (h.each e g hg) hseq m p t' i'
    · exact h.each e z (hother hed ▸ hz)
  · by_cases hed : e = d
    · subst hed
      obtain ⟨hseq1, hargs1⟩ := (mapsFrom_iff hd').mp hm
      obtain ⟨rfl, rfl⟩ := Prod.mk.inj (Option.some.inj (hargs.symm.trans hargs1))
      obtain ⟨rfl, rfl⟩ := Phase.mMap.inj hseq1
      obtain ⟨hne, hsig, g0, a0, hg0, ha0, hl, hi, hmb⟩ := h.source _ _ _ _ _ ((mapsFrom_iff hg).mpr ⟨hseq, hargs⟩)
      obtain rfl := Option.some.inj (hg.symm.trans hg0)
      obtain rfl := Option.some.inj (ha.symm.trans ha0)
      exact ⟨hne, hsig, g', a, hd', (hother hne).trans ha, hl, hi, mappedBefore_next hmb hp hnext⟩
    · have hm0 := (mapsFrom_congr (hother hed) ..).mp hm
      have hsrc := source_ne_of_running h hg hgl hm0
      exact tied_congr (s := s) rfl (hother hed) (hother hsrc.symm) (h.source _ _ _ _ _ hm0)
  · by_cases hed : e = d
    · subst hed
      obtain rfl := Option.some.inj (hd'.symm.trans hz)
      simp [hg', mapWritten, hgl] at hl
    · obtain ⟨hidle, e1, m1, hm⟩ := h.lockedIdle e z (hother hed ▸ hz) hl
      exact ⟨hidle, e1, m1, (hmaps ..).mpr hm⟩
  · obtain ⟨t2, i2, h1⟩ := (hmaps ..).mp ⟨_, _, h1⟩
    obtain ⟨t3, i3, h2⟩ := (hmaps ..).mp ⟨_, _, h2⟩
    exact h.oneMap _ _ _ _ _ _ _ _ _ h1 h2

/-- MAP's last step keeps the invariant: the MAP is gone, and its source, which no other MAP reads, is unlocked. -/
theorem inv_mapEnd (h : Inv s) (hr : s.inReset = false) {m : Word} {t : Tile} {i : Lane} (hg : s.engine d = some g)
    (hseq : g.seq = .mMap t i) (hargs : g.snap.mapArgs = some (m, src)) (ha : s.engine src = some a) (p : Pixel) :
    Inv ((s.setEngine d (mapWritten (s.cfg.pixelBits d) m p t i g).finish).setEngine src a.unlock) := by
  have hgl : g.locked = false := notLocked_of_running h hg (by simp [hseq])
  have hmap : mapsFrom s d src m t i := (mapsFrom_iff hg).mpr ⟨hseq, hargs⟩
  obtain ⟨hne, -, -, a0, -, ha0, hal, -⟩ := h.source _ _ _ _ _ hmap
  obtain rfl := Option.some.inj (ha.symm.trans ha0)
  obtain ⟨haidle, -⟩ := h.lockedIdle src a ha hal
  set g' := (mapWritten (s.cfg.pixelBits d) m p t i g).finish with hg'
  have hback : ∀ {e src1 m1 t1 i1}, mapsFrom ((s.setEngine d g').setEngine src a.unlock) e src1 m1 t1 i1 →
      e ≠ d ∧ e ≠ src ∧ mapsFrom s e src1 m1 t1 i1 := by
    intro e src1 m1 t1 i1 hm
    have h1 : e ≠ d := by rintro rfl; exact not_mapsFrom_of_not_map (engine_setTwo_dest hg hne) (by simp [hg']) hm
    exact ⟨h1, mapsFrom_setTwo_other ha hne (by simp [haidle]) h1 hm⟩
  refine ⟨h.config, by simpa using h.count, each_setTwo h hg ha hne (mapFinished_ok (h.each d g hg) m p t i)
    (unlock_ok (h.each src a ha)), fun e src1 m1 t1 i1 hm => ?_, fun e z hz hl => ?_,
    fun e e' src1 m1 m1' t1 t1' i1 i1' h1 h2 => ?_, fun hh => by simp [hr] at hh⟩
  · obtain ⟨hed, hes, hm0⟩ := hback hm
    have h1 := source_ne_of_running h hg hgl hm0
    have h2 : src1 ≠ src := by rintro rfl; exact hed (h.oneMap _ _ _ _ _ _ _ _ _ hm0 hmap)
    exact tied_congr (s := s) rfl (engine_setTwo_other hed hes) (engine_setTwo_other h1.symm h2)
      (h.source _ _ _ _ _ hm0)
  · rcases engine_setTwo_cases hg ha hne hz with ⟨rfl, rfl⟩ | ⟨rfl, rfl⟩ | ⟨hed, hes, hz⟩
    · simp [hg', mapWritten, hgl] at hl
    · simp at hl
    · obtain ⟨hidle, e1, m1, t1, i1, hm⟩ := h.lockedIdle e z hz hl
      have he1 : e1 ≠ d := by
        rintro rfl
        obtain ⟨-, hargs1⟩ := (mapsFrom_iff hg).mp hm
        exact hes (Prod.mk.inj (Option.some.inj (hargs1.symm.trans hargs))).2
      have he1' : e1 ≠ src := by rintro rfl; exact not_mapsFrom_of_not_map ha (by simp [haidle]) hm
      exact ⟨hidle, e1, m1, t1, i1, (mapsFrom_congr (engine_setTwo_other he1 he1') ..).mpr hm⟩
  · exact h.oneMap _ _ _ _ _ _ _ _ _ (hback h1).2.2 (hback h2).2.2

end

/-! ## The three kinds of change, and the step -/

/-- An idle engine, as its BUSY says. -/
theorem seq_idle_of_not_busy {s : State} (h : Inv s) {e : Nat} {g : Engine} (hg : s.engine e = some g)
    (hb : g.busy = false) : g.seq = .idle := by
  by_contra hc
  simp [(h.each e g hg).busyIff.mpr hc] at hb

/-- A source's id is below 256 (10_state R44, 30_encoding R82). -/
theorem source_lt {s : State} (h : Inv s) {src : Nat} (hs : src < s.cfg.numEngines) : src < 256 :=
  lt_of_lt_of_le hs h.config.2.1

/-- An accepted command keeps the invariant. -/
theorem inv_acceptance {s s' : State} {g : Engine} {i : Instr} (h : Inv s) (hr : s.inReset = false)
    (ha : Acceptance s g i s') : Inv s' := by
  obtain ⟨hg, -, hb, hl, hres⟩ := ha
  have ok := h.each _ _ hg
  have hidle := seq_idle_of_not_busy h hg hb
  cases hres with
  | clear =>
    exact inv_update_unlocked h hr hg (startClear_ok ok) hl rfl (by simp [hidle]) (by simp [startClear])
  | @raster g' hi hs =>
    obtain ⟨g1, hg1, ok'⟩ := startRaster_ok ok hi
    obtain rfl := Except.ok.inj (hs.symm.trans hg1)
    have hq := startRaster_sequenced hs
    exact SameSystem.inv ⟨by simp, by simp, by simp⟩
      (inv_update_unlocked h hr hg ok' hl hq.locked (by simp [hidle]) hq.noMap)
  | @write g' hi hs =>
    obtain ⟨g1, hg1, ok'⟩ := startWrite_ok ok hi
    obtain rfl := Except.ok.inj (hs.symm.trans hg1)
    have hq := startWrite_sequenced hs
    exact SameSystem.inv ⟨by simp, by simp, by simp⟩
      (inv_update_unlocked h hr hg ok' hl hq.locked (by simp [hidle]) hq.noMap)
  | map hlt hne hsrc hi hai hsig hab hal =>
    exact inv_mapAccepted h hr hg hsrc hne hsig (source_lt h hlt) hi hai hidle hl (seq_idle_of_not_busy h hsrc hab) hal

/-- A local step is no step of an idle engine nor of one that runs a MAP. -/
theorem localStep_running {pb e : Nat} {g : Engine} {r : Except Fault Engine} (h : localStep pb e g = some r) :
    g.seq ≠ .idle ∧ ∀ t i, g.seq ≠ .mMap t i := by
  constructor
  · intro hs; simp [localStep, hs] at h
  · intro t i hs; simp [localStep, hs] at h

/-- An engine's own step keeps the invariant. -/
theorem inv_engineStep {s s' : State} {e : Nat} (h : Inv s) (hr : s.inReset = false)
    (hstep : engineStep s e = some (.next s')) : Inv s' := by
  obtain ⟨g, hg, ⟨g', hl, rfl⟩ | ⟨t, i, hseq, hmap⟩⟩ := engineStep_eq_next hstep
  · obtain ⟨g1, hg1, ok⟩ := localStep_ok (h.each e g hg) hl
    obtain rfl := Except.ok.inj hg1
    obtain ⟨-, hlocked, hnomap⟩ := localStep_frame hl
    obtain ⟨hrun, hnomap0⟩ := localStep_running hl
    exact SameSystem.inv ⟨by simp, by simp, by simp⟩
      (inv_update_unlocked h hr hg ok (notLocked_of_running h hg hrun) hlocked hnomap0 hnomap)
  · obtain ⟨m, src, a, p, hargs, ha, hp, ⟨t', i', hnext, rfl⟩ | ⟨-, rfl⟩⟩ := mapStep_eq_next.mp hmap
    · exact inv_mapNext h hr hg hseq hargs ha hp hnext
    · have hne := (h.source e src m t i ((mapsFrom_iff hg).mpr ⟨hseq, hargs⟩)).1
      rw [modify_source_eq _ hne ha]
      exact inv_mapEnd h hr hg hseq hargs ha p

/-- Everything a step can do keeps the invariant. -/
theorem inv_change {s s' : State} (h : Inv s) (hc : Change s s') : Inv s' := by
  cases hc with
  | same => exact h
  | reset =>
    refine inv_reset h.config (by simpa using h.count) fun e g hg => ?_
    rw [State.engine_resetAll] at hg
    obtain ⟨g0, -, rfl⟩ := Option.map_eq_some_iff.mp hg
    exact ⟨g0, rfl⟩
  | param hr =>
    exact inv_modify h fun g hg => inv_update_aside h hr hg (setParam_ok (h.each _ g hg) _ _) rfl rfl rfl rfl rfl
  | acknowledged hr =>
    exact inv_modify h fun g hg => inv_update_aside h hr hg (acknowledge_ok (h.each _ g hg)) rfl rfl rfl rfl rfl
  | dropped hr hg => exact inv_update_aside h hr hg (raise_ok (h.each _ _ hg) _) rfl rfl rfl rfl rfl
  | answered hr hg hp ha =>
    exact inv_update_aside h hr hg (answered_ok (h.each _ _ hg) hp ha) rfl rfl rfl rfl rfl
  | accepted hr h0 ha => exact inv_acceptance (h0.inv h) (h0.inReset.trans hr) ha
  | stepped h0 hm hstep => exact inv_engineStep (h0.inv h) (h0.inReset.trans hm.1) hstep

/-- Settles O56. -/
theorem stepKeepsInv : Obligations.StepKeepsInv := by
  intro s s' h hstep
  obtain ⟨s1, hc, hs⟩ := step_change hstep
  exact hs.inv (inv_change h hc)

end Sys2Proof.Machine
end

section
/-! No model fault is raised from the invariant (60_exceptions R284). -/
namespace Sys2Proof.Machine

/-! ## Each kind of step answers -/

/-- A presentation to an existing engine answers when its acceptance does. -/
theorem presentTo_answers {s : State} {checks : Engine → List (Bool × ErrCode)} {accept : Engine → Outcome}
    {g : Engine} (hg : s.engine s.target = some g) (h : passes g (checks g) → ∃ s', accept g = .next s') :
    ∃ s', presentTo s checks accept = .next s' := by
  rcases presentTo_cases s checks accept g hg with ⟨-, hp⟩ | ⟨-, c, -, hp⟩ | ⟨hf, hn, hp⟩ <;> rw [hp]
  · exact ⟨_, rfl⟩
  · exact ⟨_, rfl⟩
  · exact h ⟨hf, (firstFailing_occupied_eq_none g _).mp hn⟩

/-- An engine of the configuration is in the state. -/
theorem Inv.engine_exists {s : State} (h : Inv s) {e : Nat} (he : e < s.cfg.numEngines) :
    ∃ g, s.engine e = some g := by
  rw [← h.count] at he
  exact ⟨_, List.getElem?_eq_getElem he⟩

/-- A command presented to an existing engine answers: acceptance finds all it needs. -/
theorem exec_answers {s : State} (h : Inv s) {g : Engine} (hg : s.engine s.target = some g) (i : Instr) :
    ∃ s', exec i s = .next s' := by
  have ok := h.each _ _ hg
  cases i with
  | clear => exact presentTo_answers hg fun _ => ⟨_, rfl⟩
  | raster =>
    refine presentTo_answers hg fun ⟨_, _, _, hc⟩ => ?_
    have hi : g.init = true := by simpa using hc (!g.init, .uninit) (by simp [checksRaster])
    obtain ⟨g', hs, -⟩ := startRaster_ok ok hi
    exact ⟨_, by rw [hs, commit_ok]⟩
  | write =>
    refine presentTo_answers hg fun ⟨_, _, _, hc⟩ => ?_
    have hi : g.init = true := by simpa using hc (!g.init, .uninit) (by simp [checksWrite])
    obtain ⟨g', hs, -⟩ := startWrite_ok ok hi
    exact ⟨_, by rw [hs, commit_ok]⟩
  | map src =>
    refine presentTo_answers hg fun ⟨_, _, _, hc⟩ => ?_
    have hlt : src < s.cfg.numEngines := by
      have hbad := hc (decide (s.cfg.numEngines ≤ src) || decide (src = s.target), .badGroup) (by simp [checksMap])
      simp only [Bool.or_eq_false_iff, decide_eq_false_iff_not, not_le] at hbad
      exact hbad.1
    obtain ⟨a, ha⟩ := h.engine_exists hlt
    exact ⟨_, by rw [ha]⟩

theorem presentWord_answers {s : State} (h : Inv s) {e : Nat} {g : Engine} (hg : s.engine e = some g) (w : Word) :
    ∃ s', presentWord s e w = .next s' := by
  have ht : SameSystem s { s with target := e } := ⟨rfl, rfl, rfl⟩
  unfold presentWord
  cases decode w with
  | ok i => exact exec_answers (ht.inv h) hg i
  | error r => exact presentTo_answers (s := { s with target := e }) hg fun _ => ⟨_, rfl⟩

/-- A MAP step finds its source, and the source's element. -/
theorem mapStep_answers {s : State} (h : Inv s) {d : Nat} {g : Engine} {t : Tile} {i : Lane}
    (hg : s.engine d = some g) (hs : g.seq = .mMap t i) : ∃ s', mapStep s d g t i = .next s' := by
  have hp := (h.each d g hg).phase
  simp only [phaseOk, hs] at hp
  obtain ⟨⟨m, src⟩, hargs⟩ := Option.isSome_iff_exists.mp hp.2
  obtain ⟨-, -, -, a, -, ha, -, hi, -⟩ := h.source d src m t i ((mapsFrom_iff hg).mpr ⟨hs, hargs⟩)
  obtain ⟨p, hp⟩ := Option.isSome_iff_exists.mp (((h.each src a ha).written hi).2 t i)
  cases hn : laneAfter t i with
  | none => exact ⟨_, mapStep_eq_next.mpr ⟨m, src, a, p, hargs, ha, hp, .inr ⟨hn, rfl⟩⟩⟩
  | some x => exact ⟨_, mapStep_eq_next.mpr ⟨m, src, a, p, hargs, ha, hp, .inl ⟨x.1, x.2, hn, rfl⟩⟩⟩

/-- An engine's step at any phase but M_MAP is its local step. -/
theorem engineStep_local {s : State} {e : Nat} {g : Engine} (hg : s.engine e = some g)
    (hs : ∀ t i, g.seq ≠ .mMap t i) :
    engineStep s e = (localStep (s.cfg.pixelBits e) e g).map (s.commit e) := by
  unfold engineStep
  rw [hg]
  cases hq : g.seq
  case mMap t i => exact absurd hq (hs t i)
  all_goals simp [hq]

theorem engineStep_map {s : State} {e : Nat} {g : Engine} {t : Tile} {i : Lane} (hg : s.engine e = some g)
    (hs : g.seq = .mMap t i) : engineStep s e = some (mapStep s e g t i) := by
  simp [engineStep, hg, hs]

/-- An engine's step answers. -/
theorem engineStep_answers {s : State} (h : Inv s) {e : Nat} {r : Outcome} (hr : engineStep s e = some r) :
    ∃ s', r = .next s' := by
  cases hg : s.engine e with
  | none => simp [engineStep, hg] at hr
  | some g =>
    by_cases hs : ∃ t i, g.seq = .mMap t i
    · obtain ⟨t, i, hs⟩ := hs
      obtain ⟨s', hm⟩ := mapStep_answers h hg hs
      rw [engineStep_map hg hs, hm] at hr
      exact ⟨s', (Option.some.inj hr).symm⟩
    · rw [engineStep_local hg (by simpa using hs)] at hr
      obtain ⟨x, hx, rfl⟩ := Option.map_eq_some_iff.mp hr
      obtain ⟨g', rfl, -⟩ := localStep_ok (h.each e g hg) hx
      exact ⟨_, commit_ok s e g'⟩

theorem runEngine_answers {s : State} (h : Inv s) (e : Nat) : ∃ s', runEngine s e = .next s' := by
  unfold runEngine
  split
  · exact ⟨s, rfl⟩
  · cases hr : engineStep s e with
    | none => exact ⟨s, rfl⟩
    | some r => exact engineStep_answers h hr

/-! ## Host accesses -/

/-- The three ends of an access whose register always answers (20_memory R60, R64). -/
theorem hostAccess_outcome {s : State} {addr width : Nat} {act : Nat → Nat → Outcome}
    (h : ∀ e off, locate s.cfg addr = some (e, off) → ∃ s', act e off = .next s') :
    (∃ s', hostAccess s addr width act = .next s') ∨ hostAccess s addr width act = .fault .unmappedAddress ∨
      ∃ b, hostAccess s addr width act = .refused (.badAccess b) := by
  rcases hostAccess_cases s addr width act with ⟨-, ha⟩ | ⟨e, off, hl, ⟨-, ha⟩ | ⟨-, ha⟩⟩
  · exact .inr (.inl ha)
  · exact .inl (ha ▸ h e off hl)
  · exact .inr (.inr ⟨_, ha⟩)

/-- An aligned word inside a window is accessed. -/
theorem hostAccess_aligned {s : State} {addr e off : Nat} (act : Nat → Nat → Outcome)
    (hl : locate s.cfg addr = some (e, off)) (ho : off % 4 = 0) : hostAccess s addr 4 act = act e off := by
  simp [hostAccess, hl, wordAccess, ho]

/-- The engine of a located address is in the state. -/
theorem Inv.located {s : State} (h : Inv s) {addr e off : Nat} (hl : locate s.cfg addr = some (e, off)) :
    ∃ g, s.engine e = some g :=
  h.engine_exists (by simpa [Platform.numEngines] using locateFrom_lt 0 s.cfg.engines addr e off hl)

/-- What a host write does at a located register. -/
def writeAt (s : State) (v : Word) (e off : Nat) : Outcome :=
  if s.inReset then .next (s.log (.hostWrote e off v))
  else if off = 0 then presentWord (s.log (.hostWrote e off v)) e v
  else .next (writeReg (s.log (.hostWrote e off v)) e off v)

/-- What a host read does at a located register. -/
def readAt (s : State) (after : Word → State → State) (e off : Nat) : Outcome :=
  match s.engine e with
  | none => .fault .noSuchEngine
  | some g => .next (after (readReg s.cfg e g off) (s.log (.hostRead e off (readReg s.cfg e g off))))

theorem hostReadThen_eq_hostAccess (s : State) (addr width : Nat) (after : Word → State → State) :
    hostReadThen s addr width after = hostAccess s addr width (readAt s after) := rfl

theorem writeAt_answers {s : State} (h : Inv s) (v : Word) {addr e off : Nat}
    (hl : locate s.cfg addr = some (e, off)) : ∃ s', writeAt s v e off = .next s' := by
  obtain ⟨g, hg⟩ := h.located hl
  have hlog : SameSystem s (s.log (.hostWrote e off v)) := ⟨rfl, rfl, rfl⟩
  unfold writeAt
  split
  · exact ⟨_, rfl⟩
  · split
    · exact presentWord_answers (hlog.inv h) hg v
    · exact ⟨_, rfl⟩

theorem readAt_answers {s : State} (h : Inv s) (after : Word → State → State) {addr e off : Nat}
    (hl : locate s.cfg addr = some (e, off)) : ∃ s', readAt s after e off = .next s' := by
  obtain ⟨g, hg⟩ := h.located hl
  unfold readAt
  rw [hg]
  exact ⟨_, rfl⟩

/-- The address and the width of a host event's access. -/
def Event.access : Event → Option (Nat × Nat)
  | .hostWrite addr width _ => some (addr, width)
  | .hostRead addr width => some (addr, width)
  | .hostWait addr => some (addr, 4)
  | _ => none

theorem Event.isHost_eq_access (ev : Event) : ev.isHost = ev.access.isSome := by
  cases ev <;> rfl

/-- A host event is an access whose register always answers. -/
theorem applyEvent_access {s : State} (h : Inv s) {ev : Event} {addr width : Nat}
    (hev : ev.access = some (addr, width)) : ∃ act, applyEvent s ev = hostAccess s addr width act ∧
      ∀ e off, locate s.cfg addr = some (e, off) → ∃ s', act e off = .next s' := by
  cases ev with
  | hostWrite addr' width' v =>
    obtain ⟨rfl, rfl⟩ := Prod.mk.inj (Option.some.inj hev)
    exact ⟨writeAt s v, rfl, fun _ _ hl => writeAt_answers h v hl⟩
  | hostRead addr' width' =>
    obtain ⟨rfl, rfl⟩ := Prod.mk.inj (Option.some.inj hev)
    simp only [applyEvent, hostRead]
    exact ⟨_, hostReadThen_eq_hostAccess .., fun _ _ hl => readAt_answers h _ hl⟩
  | hostWait addr' =>
    obtain ⟨rfl, rfl⟩ := Prod.mk.inj (Option.some.inj hev)
    simp only [applyEvent, hostWait]
    exact ⟨_, hostReadThen_eq_hostAccess .., fun _ _ hl => readAt_answers h _ hl⟩
  | engine | answer | reset => cases hev

/-- An access of an aligned word inside a window answers. -/
theorem applyEvent_aligned {s : State} (h : Inv s) {ev : Event} {addr e off : Nat} (hev : ev.access = some (addr, 4))
    (hl : locate s.cfg addr = some (e, off)) (ho : off % 4 = 0) : ∃ s', applyEvent s ev = .next s' := by
  obtain ⟨act, heq, hact⟩ := applyEvent_access h hev
  rw [heq, hostAccess_aligned act hl ho]
  exact hact e off hl

/-- Every other event answers. -/
theorem applyEvent_notHost {s : State} (h : Inv s) {ev : Event} (hev : ev.isHost = false) :
    ∃ s', applyEvent s ev = .next s' := by
  cases ev with
  | engine e => exact runEngine_answers h e
  | answer e a => exact ⟨_, rfl⟩
  | reset on => exact ⟨_, rfl⟩
  | hostWrite | hostRead | hostWait => simp [Event.isHost] at hev

/-! ## The step -/

theorem step_nil {s : State} (hin : s.inputs = []) : step s = drain s := by
  simp [step, nextStep, hin]

theorem step_cons {s : State} {ev : Event} {rest : List Event} (hin : s.inputs = ev :: rest) :
    step s = applyEvent { s with inputs := rest } ev := by
  simp [step, nextStep, hin]

/-- The invariant does not read the coming events. -/
theorem Inv.with_inputs {s : State} (h : Inv s) (l : List Event) : Inv { s with inputs := l } :=
  SameSystem.inv (s := s) ⟨rfl, rfl, rfl⟩ h

theorem drain_answers {s : State} (h : Inv s) : ∃ s', drain s = .next s' := by
  unfold drain
  split
  · exact runEngine_answers h _
  · exact ⟨s, rfl⟩

/-- From the invariant a step answers, or stops for an address outside every window or for a bad access. -/
theorem step_outcome {s : State} (h : Inv s) : (∃ s', step s = .next s') ∨ step s = .fault .unmappedAddress ∨
    ∃ b, step s = .refused (.badAccess b) := by
  cases hin : s.inputs with
  | nil => exact .inl (step_nil hin ▸ drain_answers h)
  | cons ev rest =>
    rw [step_cons hin]
    cases hev : ev.isHost with
    | true =>
      rw [Event.isHost_eq_access] at hev
      obtain ⟨⟨addr, width⟩, hacc⟩ := Option.isSome_iff_exists.mp hev
      obtain ⟨act, heq, hact⟩ := applyEvent_access (h.with_inputs rest) hacc
      rw [heq]
      exact hostAccess_outcome hact
    | false => exact .inl (applyEvent_notHost (h.with_inputs rest) hev)

/-- Settles O57. -/
theorem noModelFault : Obligations.NoModelFault := by
  intro s h
  refine ⟨fun f hf => ?_, fun r hr => ?_, fun addr e off v rest hl ho hin => ?_, fun hin => ?_,
    fun ev rest hin hev => ?_⟩
  · rcases step_outcome h with ⟨s', hs⟩ | hs | ⟨b, hs⟩ <;> rw [hf] at hs <;> cases hs
    rfl
  · rcases step_outcome h with ⟨s', hs⟩ | hs | ⟨b, hs⟩ <;> rw [hr] at hs <;> cases hs
    exact ⟨b, rfl⟩
  · have h0 := h.with_inputs rest
    rcases hin with hin | hin | hin <;> rw [step_cons hin] <;> exact applyEvent_aligned h0 rfl hl ho
  · exact step_nil hin ▸ drain_answers h
  · exact step_cons hin ▸ applyEvent_notHost (h.with_inputs rest) hev

end Sys2Proof.Machine
end

section
/-! Commands finish within their bound: every engine step lowers `stepsLeft`, and nothing raises it
(10_state R42, 44_commands R216). -/
namespace Sys2Proof.Machine

/-! ## The bits of CUR -/

theorem popcount_le (m : Mask) : popcount m ≤ 64 := by
  unfold popcount
  exact List.countP_le_length.trans (List.length_finRange).le

/-- Clearing a set bit leaves one set bit less. -/
theorem popcount_clearbit (m : Mask) (i : Lane) (h : m.getLsbD i = true) :
    popcount (clearbit m i) + 1 = popcount m := by
  have hperm : (List.finRange 64).Perm (i :: (List.finRange 64).erase i) :=
    List.perm_cons_erase (List.mem_finRange i)
  have hrest : ((List.finRange 64).erase i).countP (fun j : Lane => (clearbit m i).getLsbD j.val) =
      ((List.finRange 64).erase i).countP fun j : Lane => m.getLsbD j.val := by
    refine List.countP_congr fun j hj => ?_
    have hne : i ≠ j := ((List.nodup_finRange 64).mem_erase_iff.mp hj).1.symm
    rw [clearbit_getLsbD]
    simp [hne]
  unfold popcount
  rw [hperm.countP_eq, hperm.countP_eq, List.countP_cons, List.countP_cons, hrest, clearbit_getLsbD, h]
  simp

/-! ## The bound of each shared operation -/

theorem nextTile_stepsLeft {e : Nat} {t : Tile} {g g' : Engine} (h : nextTile e t g = .ok g') :
    stepsLeft g' ≤ 195 * (15 - t.val) := by
  rcases (nextTile_eq_ok ..).mp h with ⟨-, rfl⟩ | ⟨t', ht, h⟩
  · simp [stepsLeft]
  · obtain ⟨a, -, rfl⟩ := (enterTile_eq_ok ..).mp h
    have := tileAfter_some ht
    simp only [stepsLeft]
    omega

theorem advanceIter_stepsLeft {e : Nat} {t : Tile} {g g' : Engine} (h : advanceIter e t g = .ok g') :
    ∃ cur, g.tr.cur = some cur ∧ stepsLeft g' ≤ 195 * (15 - t.val) + 3 * popcount cur := by
  obtain ⟨cur, hcur, ⟨-, h⟩ | ⟨h0, a, w, u, v, -, -, -, -, rfl⟩⟩ := (advanceIter_eq_ok ..).mp h
  · exact ⟨cur, hcur, (nextTile_stepsLeft h).trans (Nat.le_add_right _ _)⟩
  · have := popcount_clearbit cur (ctz cur) (ctz_spec cur h0).1
    refine ⟨cur, hcur, ?_⟩
    simp only [stepsLeft]
    omega

theorem coverStep_stepsLeft {e : Nat} {t : Tile} {g g' : Engine} (hs : g.seq = .rCover t)
    (h : coverStep e t g = .ok g') : stepsLeft g' < stepsLeft g := by
  have hg : stepsLeft g = 195 * (15 - t.val) + 194 := by simp [stepsLeft, hs]
  obtain ⟨u, v, -, -, ⟨-, h⟩ | ⟨-, rfl⟩⟩ := (coverStep_eq_ok ..).mp h
  · have := nextTile_stepsLeft h
    omega
  · rw [hg]; simp [stepsLeft]

theorem depthStep_stepsLeft {e : Nat} {t : Tile} {g g' : Engine} (hs : g.seq = .rDepth t)
    (h : depthStep e t g = .ok g') : stepsLeft g' < stepsLeft g := by
  have hg : stepsLeft g = 195 * (15 - t.val) + 193 := by simp [stepsLeft, hs]
  obtain ⟨g1, m, -, -, h⟩ := (depthStep_eq_ok ..).mp h
  obtain ⟨cur, -, hle⟩ := advanceIter_stepsLeft h
  have := popcount_le cur
  omega

theorem takeBlend_stepsLeft {e : Nat} {t : Tile} {i : Lane} {p : Pixel} {g g' : Engine} (hs : g.seq = .rBlend t i)
    (h : takeBlend e t i p g = .ok g') : stepsLeft g' < stepsLeft g := by
  obtain ⟨cur, hcur, hle⟩ := advanceIter_stepsLeft h
  have hcur : g.tr.cur = some cur := hcur
  have hg : stepsLeft g = 195 * (15 - t.val) + 3 * popcount cur + 1 := by simp [stepsLeft, hs, hcur]
  omega

theorem takeAck_stepsLeft {e : Nat} {k : Fin 1024} {g g' : Engine} (hs : g.seq = .wPush k)
    (hk : g.tr.pushk = some k) (h : takeAck e g = .ok g') : stepsLeft g' < stepsLeft g := by
  have hg : stepsLeft g = 1024 - k.val := by simp [stepsLeft, hs]
  obtain ⟨k', hk', ⟨hlt, h⟩ | ⟨-, rfl⟩⟩ := (takeAck_eq_ok ..).mp h
  · obtain rfl := Option.some.inj (hk.symm.trans hk')
    obtain ⟨ox, oy, n, p, -, -, rfl⟩ := (issuePush_eq_ok ..).mp h
    rw [hg]
    simp only [stepsLeft]
    omega
  · rw [hg]
    simp [stepsLeft]

/-! ## The bound of an engine's own step -/

/-- A local step of a good engine lowers the bound. -/
theorem localStep_stepsLeft {pb e : Nat} {g g' : Engine} (ok : EngineOk pb e g)
    (h : localStep pb e g = some (.ok g')) : stepsLeft g' < stepsLeft g := by
  rcases localStep_cases h with ⟨hs, h⟩ | ⟨t, u, v, hs, -, h⟩ | ⟨t, hs, h⟩ | ⟨t, hs, h⟩ | ⟨t, i, a, hs, -, h⟩ |
    ⟨t, i, p, hs, -, h⟩ | ⟨t, i, p, hs, -, h⟩ | ⟨k, hs, -, h⟩
  · obtain ⟨fill, -, rfl⟩ := (clearStep_eq_ok ..).mp h.symm
    simp [stepsLeft, hs]
  · obtain rfl := Except.ok.inj h
    simp [stepsLeft, takeEval, hs]
  · exact coverStep_stepsLeft hs h.symm
  · exact depthStep_stepsLeft hs h.symm
  · obtain ⟨a, -, rfl⟩ := (takeInterp_eq_ok ..).mp h.symm
    simp [stepsLeft, hs]
  · obtain ⟨a, old, -, -, rfl⟩ := (takeFrag_eq_ok ..).mp h.symm
    simp [stepsLeft, hs]
  · exact takeBlend_stepsLeft hs h.symm
  · have hp := ok.phase
    simp only [phaseOk, hs] at hp
    obtain ⟨-, -, -, -, -, hk, -⟩ := hp
    exact takeAck_stepsLeft hs hk h.symm

theorem stepsLeft_mMap {g : Engine} {t : Tile} {i : Lane} (hs : g.seq = .mMap t i) :
    stepsLeft g = 1024 - (numberOfLane t i).val := by
  simp [stepsLeft, hs]

/-- A MAP step to the next lane lowers the bound. -/
theorem mapNext_stepsLeft {g g' : Engine} {t t' : Tile} {i i' : Lane} (hs : g.seq = .mMap t i)
    (hs' : g'.seq = .mMap t' i') (hnext : laneAfter t i = some (t', i')) : stepsLeft g' < stepsLeft g := by
  rw [stepsLeft_mMap hs, stepsLeft_mMap hs']
  have := laneAfter_some hnext
  omega

/-- MAP's last step lowers the bound. -/
theorem mapEnd_stepsLeft {g g' : Engine} {t : Tile} {i : Lane} (hs : g.seq = .mMap t i) (hs' : g'.seq = .idle) :
    stepsLeft g' < stepsLeft g := by
  rw [stepsLeft_mMap hs]
  simp [stepsLeft, hs']

/-- A port that holds a request waits, or carries an answer that `f` takes, when `f` takes every answer of its type. -/
theorem waits_or_taken {α β : Type} {p : PortState} {r : Request} {f : PortState → Option α} (k : α → β)
    (h : portHolds p r) (hf : ∀ a, answers r a = true → (f (.answered r a)).isSome = true) :
    (∃ r, p = .waiting r) ∨ ∃ y, (f p).map k = some y := by
  rcases h with hw | ⟨a, ha, rfl⟩
  · exact .inl ⟨r, hw⟩
  · obtain ⟨x, hx⟩ := Option.isSome_iff_exists.mp (hf a ha)
    exact .inr ⟨k x, by rw [hx]; rfl⟩

/-- A good running engine that runs no MAP waits for an agent, or has a local step (44_commands R216). -/
theorem waits_or_localStep {pb e : Nat} {g : Engine} (ok : EngineOk pb e g) (h1 : g.seq ≠ .idle)
    (h2 : ∀ t i, g.seq ≠ .mMap t i) : (∃ r, g.port = .waiting r) ∨ ∃ r, localStep pb e g = some r := by
  have hp := ok.phase
  unfold localStep
  cases hs : g.seq <;> simp only [phaseOk, hs] at hp ⊢
  case idle => exact absurd hs h1
  case mMap t i => exact absurd hs (h2 t i)
  case clr | rCover | rDepth => exact .inr ⟨_, rfl⟩
  case rEval t =>
    obtain ⟨a, pt, -, -, hport⟩ := hp
    exact waits_or_taken _ hport fun b hb => by cases b <;> simp_all [answers, PortState.evalAnswer]
  case rInterp t i =>
    obtain ⟨-, a, w, u, v, -, -, -, -, hport⟩ := hp
    exact waits_or_taken _ hport fun b hb => by cases b <;> simp_all [answers, PortState.interpAnswer]
  case rFrag t i =>
    obtain ⟨-, a, attr, -, -, hport⟩ := hp
    exact waits_or_taken _ hport fun b hb => by cases b <;> simp_all [answers, PortState.fragAnswer]
  case rBlend t i =>
    obtain ⟨-, a, old, p, -, -, -, hport⟩ := hp
    exact waits_or_taken _ hport fun b hb => by cases b <;> simp_all [answers, PortState.blendAnswer]
  case wPush k =>
    obtain ⟨ox, oy, n, p, -, -, -, hport⟩ := hp
    exact waits_or_taken _ hport fun b hb => by cases b <;> simp_all [answers, PortState.pushTaken]

/-! ## The system's steps -/

/-- A running engine waits for an agent, or its step lowers the bound. -/
theorem waits_or_progress {s : State} {e : Nat} {g : Engine} (h : Inv s) (hg : s.engine e = some g)
    (hrun : g.seq ≠ .idle) : (∃ r, g.port = .waiting r) ∨ ∃ s' g', engineStep s e = some (.next s') ∧
      s'.engine e = some g' ∧ stepsLeft g' < stepsLeft g := by
  by_cases hm : ∃ t i, g.seq = .mMap t i
  · obtain ⟨t, i, hs⟩ := hm
    obtain ⟨s', hmap⟩ := mapStep_answers h hg hs
    have hstep : engineStep s e = some (.next s') := by rw [engineStep_map hg hs, hmap]
    obtain ⟨m, src, a, p, hargs, ha, -, ⟨t', i', hnext, rfl⟩ | ⟨-, rfl⟩⟩ := mapStep_eq_next.mp hmap
    · exact .inr ⟨_, _, hstep, State.engine_setEngine_self _ _ _ _ hg, mapNext_stepsLeft hs rfl hnext⟩
    · have hne := (h.source e src m t i ((mapsFrom_iff hg).mpr ⟨hs, hargs⟩)).1
      rw [modify_source_eq _ hne ha] at hstep
      exact .inr ⟨_, _, hstep, engine_setTwo_dest hg hne, mapEnd_stepsLeft hs rfl⟩
  · have hm' : ∀ t i, g.seq ≠ .mMap t i := by simpa using hm
    refine (waits_or_localStep (h.each e g hg) hrun hm').imp_right fun ⟨r, hr⟩ => ?_
    obtain ⟨g', rfl, -⟩ := localStep_ok (h.each e g hg) hr
    refine ⟨steppedTo s e g', g', ?_, ?_, localStep_stepsLeft (h.each e g hg) hr⟩
    · rw [engineStep_local hg hm', hr, Option.map_some, commit_ok]
    · rw [steppedTo_engine, State.engine_setEngine_self _ _ _ _ hg]

/-- No step of the system raises a running engine's bound. -/
theorem engineChange_stepsLeft {s : State} {e : Nat} {g g' : Engine} (ok : EngineOk (s.cfg.pixelBits e) e g)
    (hrun : g.seq ≠ .idle) (h : EngineChange s e g g') : stepsLeft g' ≤ stepsLeft g := by
  have hbusy : g.busy = true := ok.busyIff.mpr hrun
  cases h with
  | same | param | acknowledged | dropped | answered | unlocked => exact le_rfl
  | reset => simp [stepsLeft, Engine.resetAgain, Engine.reset]
  | cleared hb | rastered hb | wrote hb | mapping _ hb | locked hb => simp [hb] at hbusy
  | stepped _ hl => exact (localStep_stepsLeft ok hl).le
  | mapped _ hs hnext => exact (mapNext_stepsLeft hs rfl hnext).le
  | mapEnded _ _ hs _ => exact (mapEnd_stepsLeft hs rfl).le

/-- In an engine's own move the step is that engine's turn. -/
theorem step_of_ownMove {s : State} {e : Nat} (hm : ownMove s e) :
    ∃ l, step s = runEngine { s with inputs := l } e := by
  obtain ⟨-, ⟨rest, hin⟩ | ⟨hin, hf⟩⟩ := hm
  · exact ⟨rest, step_cons hin⟩
  · refine ⟨s.inputs, ?_⟩
    rw [step_nil hin, drain, hf]

/-- An engine's own move lowers its bound, unless it waits. -/
theorem ownMove_stepsLeft {s s' : State} {e : Nat} {g g' : Engine} (h : Inv s) (hstep : step s = .next s')
    (hg : s.engine e = some g) (hg' : s'.engine e = some g') (hrun : g.seq ≠ .idle) (hm : ownMove s e)
    (hw : ∀ r, g.port ≠ .waiting r) : stepsLeft g' < stepsLeft g := by
  obtain ⟨l, hl⟩ := step_of_ownMove hm
  rcases waits_or_progress (h.with_inputs l) hg hrun with ⟨r, hr⟩ | ⟨s1, g1, hs1, hg1, hlt⟩
  · exact absurd hr (hw r)
  · have hr : ¬ (State.mk s.cfg s.engines s.inReset l s.target s.history).inReset = true := by simp [hm.1]
    rw [hl, runEngine, if_neg hr, hs1] at hstep
    obtain rfl := Host.Outcome.next.inj hstep
    obtain rfl := Option.some.inj (hg1.symm.trans hg')
    exact hlt

/-- The bound of a command just accepted (44_commands R216). -/
def boundOf : Instr → Nat
  | .clear => 1
  | .raster => 3120
  | .write => 1024
  | .map _ => 1024

theorem accepted_stepsLeft {s s' : State} {i : Instr} {g g' : Engine} (hg : s.engine s.target = some g)
    (h : Accepted s g i s') (hg' : s'.engine s.target = some g') : stepsLeft g' = boundOf i := by
  cases h with
  | clear =>
    rw [State.engine_setEngine_self _ _ _ _ hg] at hg'
    obtain rfl := Option.some.inj hg'
    rfl
  | raster _ hs =>
    rw [steppedTo_engine, State.engine_setEngine_self _ _ _ _ hg] at hg'
    obtain rfl := Option.some.inj hg'
    obtain ⟨a, -, rfl⟩ := (enterTile_eq_ok ..).mp hs
    rfl
  | write _ hs =>
    rw [steppedTo_engine, State.engine_setEngine_self _ _ _ _ hg] at hg'
    obtain rfl := Option.some.inj hg'
    obtain ⟨ox, oy, n, p, -, -, rfl⟩ := (issuePush_eq_ok ..).mp hs
    rfl
  | map _ hne ha =>
    rw [engine_setTwo_dest hg hne] at hg'
    obtain rfl := Option.some.inj hg'
    rfl

/-- Settles O59. -/
theorem boundedProgress : Obligations.BoundedProgress := by
  refine ⟨fun s e g h hg hrun => waits_or_progress h hg hrun, fun s s' e g g' h hstep hg hg' hrun => ⟨?_, ?_⟩,
    fun s s' i g g' _ hg hb hex hg' hb' => ?_⟩
  · exact engineChange_stepsLeft (h.each e g hg) hrun (step_engineChange hstep hg hg')
  · exact ownMove_stepsLeft h hstep hg hg' hrun
  · obtain ⟨g0, hg0, ⟨-, rfl⟩ | ⟨-, c, rfl⟩ | ha⟩ := exec_eq_next hex
    · obtain rfl := Option.some.inj (hg.symm.trans hg')
      simp [hb] at hb'
    · obtain rfl := Option.some.inj (hg.symm.trans hg0)
      rw [State.raise, State.engine_setEngine_self _ _ _ _ hg] at hg'
      obtain rfl := Option.some.inj hg'
      simp [hb] at hb'
    · obtain rfl := Option.some.inj (hg.symm.trans hg0)
      rw [accepted_stepsLeft hg ha.result hg']
      cases i <;> rfl

end Sys2Proof.Machine
end

section
/-! The acceptance of each command with its frame, the host's command and acknowledge writes, and the fields of ID. -/
namespace Sys2Proof.Machine

/-! ## Windows (20_memory R60) -/

/-- The windows do not overlap, so an offset in an engine's window is located there. -/
theorem locateFrom_window {l : List EngineConfig} {k j off : Nat} {c : EngineConfig}
    (hdis : l.Pairwise fun a b => a.base + 0x100 ≤ b.base ∨ b.base + 0x100 ≤ a.base) (hj : l[j]? = some c)
    (hoff : off < 0x100) : locateFrom k l (c.base + off) = some (k + j, off) := by
  induction l generalizing k j with
  | nil => simp at hj
  | cons b rest ih =>
    obtain ⟨hb, hrest⟩ := List.pairwise_cons.mp hdis
    cases j with
    | zero =>
      obtain rfl : b = c := by simpa using hj
      simp [locateFrom, hoff]
    | succ j =>
      have hj : rest[j]? = some c := by simpa using hj
      have hapart := hb c (List.mem_of_getElem? hj)
      have hno : ¬ (b.base ≤ c.base + off ∧ c.base + off < b.base + 0x100) := by omega
      rw [locateFrom, if_neg hno, ih hrest hj]
      congr 2
      omega

/-- Offset `off` of engine e's window is located there. -/
theorem locate_window {c : Platform} (hc : c.Wf) {e off : Nat} (he : e < c.numEngines) (hoff : off < 0x100) :
    locate c (c.base e + off) = some (e, off) := by
  have hk : c.engines[e]? = some c.engines[e] := List.getElem?_eq_getElem he
  have hw := locateFrom_window (k := 0) hc.2.2.2 hk hoff
  have hbase : c.base e = c.engines[e].base := by simp [Platform.base, hk]
  rw [hbase]
  simpa [locate] using hw

theorem locate_base {c : Platform} (hc : c.Wf) {e : Nat} (he : e < c.numEngines) : locate c (c.base e) = some (e, 0) :=
  locate_window (off := 0) hc he (by omega)

/-! ## The bytes that STATUS leaves alone -/

/-- Only STATUS's low byte is ever set (20_memory R63). -/
theorem status_getLsbD_high (g : Engine) {k : Nat} (hk : 8 ≤ k) : g.status.getLsbD k = false := by
  unfold Engine.status
  rw [BitVec.getLsbD_append, if_neg (by omega), BitVec.getLsbD_append, if_neg (by omega), BitVec.getLsbD_append,
    if_neg (by omega), BitVec.getLsbD_append, if_neg (by omega), BitVec.getLsbD_append, if_neg (by omega)]
  simp

theorem byteOfWord_status_high (g : Engine) {j : Nat} (hj : 1 ≤ j) : byteOfWord g.status j = 0 := by
  refine BitVec.eq_of_getLsbD_eq fun k _ => ?_
  simp [byteOfWord, status_getLsbD_high g (show 8 ≤ 8 * j + k by omega)]

/-- Every register but STATUS is a function of the parameter registers. -/
theorem readReg_congr {c : Platform} {e off : Nat} {g g' : Engine} (hp : g'.params = g.params) (hoff : off ≠ 4) :
    readReg c e g' off = readReg c e g off := by
  unfold readReg
  cases paramAt off <;> simp [Engine.param, hp, hoff]

/-- Engines with the same parameter registers show the same bytes, but for the byte at offset 4. -/
theorem windowByte_congr {c : Platform} {e off : Nat} {g g' : Engine} (hp : g'.params = g.params) (hoff : off ≠ 4) :
    byteOfWord (readReg c e g' (off - off % 4)) (off % 4) = byteOfWord (readReg c e g (off - off % 4)) (off % 4) := by
  by_cases h : off - off % 4 = 4
  · have hs : ∀ x : Engine, readReg c e x 4 = x.status := fun _ => rfl
    rw [h, hs, hs, byteOfWord_status_high _ (by omega), byteOfWord_status_high _ (by omega)]
  · rw [readReg_congr hp h]

/-- What keeps the configuration, the engines but those listed, and every parameter register, keeps every byte but
those of the STATUS flags of the engines listed. -/
theorem sameBytesBut_of {s s' : State} {es : List Nat} (hc : s'.cfg = s.cfg)
    (hother : ∀ e, e ∉ es → s'.engine e = s.engine e)
    (hparams : ∀ e, (s'.engine e).map Engine.params = (s.engine e).map Engine.params) : sameBytesBut s s' es := by
  intro addr haddr
  unfold windowByte
  rw [hc]
  cases hl : locate s.cfg addr with
  | none => rfl
  | some x =>
    obtain ⟨e, off⟩ := x
    by_cases he : e ∈ es
    · have hoff : off ≠ 4 := by rintro rfl; exact haddr e he hl
      have hp := hparams e
      cases hg : s.engine e <;> cases hg' : s'.engine e <;> simp only [hg, hg', Option.map_some, Option.map_none,
        Option.some.injEq, reduceCtorEq] at hp
      · simp [hg, hg']
      · simpa [hg, hg'] using windowByte_congr hp hoff
    · simp only [hother e he]

theorem sameBytesBut_steppedTo {s : State} {e : Nat} {g g' : Engine} (hg : s.engine e = some g)
    (hp : g'.params = g.params) : sameBytesBut s (steppedTo s e g') [e] := by
  refine sameBytesBut_of (by simp) (fun d hd => ?_) fun d => ?_
  · rw [steppedTo_engine, State.engine_setEngine_ne _ _ _ _ (by simpa [eq_comm] using hd)]
  · rw [steppedTo_engine, State.engine_setEngine]
    split
    · rename_i h; subst h; simp [hg, hp]
    · rfl

/-! ## Acceptance -/

/-- Settles O11. -/
theorem clearAccepted : Obligations.ClearAccepted := by
  intro s g hg hf hb hl hv
  have hacc : exec .clear s = .next (steppedTo s s.target (startClear (s.cfg.pixelBits s.target) g)) :=
    presentTo_accept hg ⟨hf, hb, hl, by simpa [checksClear, Engine.allValid] using hv⟩
  refine ⟨_, hacc, fun r hr => capture_reg g _ none none r hr, fun s' hs' => ?_⟩
  obtain rfl := Host.Outcome.next.inj (hacc.symm.trans hs')
  exact sameBytesBut_steppedTo hg rfl

/-- Settles O12. -/
theorem rasterAccepted : Obligations.RasterAccepted := by
  intro s g hg hf hb hl hv hi
  have hstart : startRaster s.target g = .ok _ :=
    (enterTile_eq_ok ..).mpr ⟨g.rasterArgs, rasterArgs_capture g none none, rfl⟩
  have hacc : exec .raster s = _ :=
    (presentTo_accept hg ⟨hf, hb, hl, by simpa [checksRaster, Engine.allValid, hi] using hv⟩).trans
      (by rw [hstart, commit_ok])
  refine ⟨_, rasterArgs_capture g none none, hacc, fun s' hs' => ?_⟩
  obtain rfl := Host.Outcome.next.inj (hacc.symm.trans hs')
  exact sameBytesBut_steppedTo hg rfl

/-- Settles O13. -/
theorem writeAccepted : Obligations.WriteAccepted := by
  intro s g hg hf hb hl hx hy hi hox hoy hw
  obtain ⟨p, hp⟩ := Option.isSome_iff_exists.mp
    (hw (writeOrder ⟨s.target, g.writeDraws⟩ 0).1 (writeOrder ⟨s.target, g.writeDraws⟩ 0).2)
  have hargs := writeArgs_capture g none g.writeDraws
  have hstart : startWrite s.target g = .ok _ := (issuePush_eq_ok ..).mpr ⟨_, _, _, p, hargs, hp, rfl⟩
  have hacc : exec .write s = _ :=
    (presentTo_accept hg ⟨hf, hb, hl, by
      simp [checksWrite, Engine.allValid, usesWrite, Engine.originOk, maxOrigin, hx, hy, hi, hox, hoy]⟩).trans
      (by rw [hstart, commit_ok])
  refine ⟨_, p, hargs, ⟨hp, hacc⟩, fun s' hs' => ?_⟩
  obtain rfl := Host.Outcome.next.inj (hacc.symm.trans hs')
  exact sameBytesBut_steppedTo hg rfl

/-- Settles O14. -/
theorem mapAccepted : Obligations.MapAccepted := by
  intro s src g a hg ha hlt hle hne hf hb hl hv hi hai hab hal hsig
  have hacc : exec (.map src) s = .next ((s.setEngine s.target (startMap src g)).setEngine src a.lock) := by
    refine (presentTo_accept hg ⟨hf, hb, hl, (checksMap_pass ha).mpr ⟨hlt, hne, hv, hi, hai, hsig, hab, hal⟩⟩).trans ?_
    simp only [ha]
    rw [modify_source_eq _ hne ha]
  refine ⟨_, mapArgs_capture g src none (lt_of_lt_of_le hlt hle), hacc, fun s' hs' => ?_⟩
  obtain rfl := Host.Outcome.next.inj (hacc.symm.trans hs')
  refine sameBytesBut_of rfl (fun e he => ?_) fun e => ?_
  · simp only [List.mem_cons, List.not_mem_nil, or_false, not_or] at he
    exact engine_setTwo_other he.1 he.2
  · by_cases hd : e = s.target
    · subst hd; rw [engine_setTwo_dest hg hne, hg]; rfl
    · by_cases hs : e = src
      · subst hs; rw [engine_setTwo_source ha hne, ha]; rfl
      · rw [engine_setTwo_other hd hs]

/-! ## Command words and the acknowledge -/

/-- The host's write of a word to an engine's CMD register presents it, with the access recorded (20_memory R62). -/
theorem step_command {s : State} {e : Nat} {w : Word} {rest : List Event} (hc : s.cfg.Wf) (he : e < s.cfg.numEngines)
    (hr : s.inReset = false) (hin : s.inputs = .hostWrite (s.cfg.base e) 4 w :: rest) :
    step s = presentWord { s with inputs := rest, history := .hostWrote e 0 w :: s.history } e w := by
  have hl : locate s.cfg (s.cfg.base e) = some (e, 0) := locate_base hc he
  rw [step_cons hin]
  refine (hostAccess_aligned (writeAt _ w) hl rfl).trans ?_
  simp [writeAt, hr, State.log]

/-- Settles O6. -/
theorem stepRunsDecoded : Obligations.StepRunsDecoded := by
  intro s e w rest hc he hr hin
  refine ⟨fun i hd => ?_, fun r hd => ?_, fun i v hd => ?_⟩
  · simp [step_command hc he hr hin, presentWord, hd]
  · simp [step_command hc he hr hin, presentWord, hd]
  · have hin' : (s.withFetchWord 32 v.toNat).inputs = .hostWrite (s.cfg.base 0) 4 v :: s.inputs := by
      have hv : BitVec.ofNat 32 (v.toNat % 2 ^ 32) = v := by
        rw [Nat.mod_eq_of_lt v.isLt, BitVec.ofNat_toNat, BitVec.setWidth_eq]
      rw [State.withFetchWord, hv]
      rfl
    rw [step_command (s := s.withFetchWord 32 v.toNat) hc hc.1 rfl hin']
    simp [presentWord, hd, State.withFetchWord]

/-- The host's write of a word to CTRL (20_memory R62). -/
theorem step_ctrl {s : State} {e addr : Nat} {v : Word} {rest : List Event} (hr : s.inReset = false)
    (hl : locate s.cfg addr = some (e, 8)) (hin : s.inputs = .hostWrite addr 4 v :: rest) :
    step s = .next (if v.getLsbD 0 = true
      then State.acknowledge { s with inputs := rest, history := .hostWrote e 8 v :: s.history } e
      else { s with inputs := rest, history := .hostWrote e 8 v :: s.history }) := by
  rw [step_cons hin]
  refine (hostAccess_aligned (writeAt _ v) hl rfl).trans ?_
  have hno : paramAt 8 = none := by decide
  simp [writeAt, hr, State.log, writeReg, hno]

/-- An engine without a fault is left as it is by the acknowledge (10_state R33). -/
theorem acknowledge_of_no_fault {pb e : Nat} {g : Engine} (ok : EngineOk pb e g) (hf : g.fault = false) :
    g.acknowledge = g := by
  have hcode : g.code = 0 := ok.codeIff.mp hf
  cases g
  simp_all [Engine.acknowledge]

/-- Settles O10. -/
theorem acknowledge : Obligations.Acknowledge := by
  intro s e addr g v rest hg hr hl hin ok
  have hstep := step_ctrl hr hl hin
  have hack : State.acknowledge { s with inputs := rest, history := .hostWrote e 8 v :: s.history } e =
      State.setEngine { s with inputs := rest, history := .hostWrote e 8 v :: s.history } e g.acknowledge :=
    modify_eq_set (s := { s with inputs := rest, history := .hostWrote e 8 v :: s.history }) hg _
  refine ⟨fun hv => ?_, fun h => ?_, rfl⟩
  · rw [hstep, if_pos hv, hack]
    rfl
  · rw [hstep]
    split
    · rename_i hv
      have hf : g.fault = false := h.resolve_left (by simp [hv])
      have hself : s.engines.set e g = s.engines := by
        obtain ⟨hlt, rfl⟩ := List.getElem?_eq_some_iff.mp hg
        exact List.set_getElem_self hlt
      rw [hack, acknowledge_of_no_fault ok hf, State.setEngine, hself]
    · rfl

/-- The five fields of ID, each at its bits (10_state R34). -/
theorem idWord_fields (a b : BitVec 8) (w : Word)
    (hw : w = a ++ b ++ (0 : BitVec 4) ++ (2 : BitVec 4) ++ (8 : BitVec 8)) :
    w.extractLsb' 0 8 = 8 ∧ w.extractLsb' 8 4 = 2 ∧ w.extractLsb' 12 4 = 0 ∧ w.extractLsb' 16 8 = b ∧
      w.extractLsb' 24 8 = a := by
  subst hw
  refine ⟨?_, ?_, ?_, ?_, ?_⟩
  · rw [BitVec.extractLsb'_append_eq_of_add_le (by omega), BitVec.extractLsb'_eq_self]
  · rw [BitVec.extractLsb'_append_eq_of_le (by omega), BitVec.extractLsb'_append_eq_of_add_le (by omega),
      BitVec.extractLsb'_eq_self]
  · rw [BitVec.extractLsb'_append_eq_of_le (by omega), BitVec.extractLsb'_append_eq_of_le (by omega),
      BitVec.extractLsb'_append_eq_of_add_le (by omega), BitVec.extractLsb'_eq_self]
  · rw [BitVec.extractLsb'_append_eq_of_le (by omega), BitVec.extractLsb'_append_eq_of_le (by omega),
      BitVec.extractLsb'_append_eq_of_le (by omega), BitVec.extractLsb'_append_eq_of_add_le (by omega),
      BitVec.extractLsb'_eq_self]
  · rw [BitVec.extractLsb'_append_eq_of_le (by omega), BitVec.extractLsb'_append_eq_of_le (by omega),
      BitVec.extractLsb'_append_eq_of_le (by omega), BitVec.extractLsb'_append_eq_of_le (by omega),
      BitVec.extractLsb'_eq_self]

/-- Settles O35. -/
theorem idFields : Obligations.IdFields := by
  intro e pb he hp
  obtain ⟨h1, h2, h3, h4, h5⟩ := idWord_fields (BitVec.ofNat 8 e) (BitVec.ofNat 8 pb) (idWord e pb) rfl
  refine ⟨h1, h2, h3, ?_, ?_⟩
  · rw [h4, BitVec.toNat_ofNat]; omega
  · rw [h5, BitVec.toNat_ofNat]; omega

end Sys2Proof.Machine
end

section
/-! Rounding to the nearest binary32, ties to even: what `roundMag` computes, and that no finite binary32 is nearer
(40_lane_primitives R100). -/
namespace Sys2Proof.Machine

/-! ## The fields of a packed value -/

theorem f32Pack_toNat {neg : Bool} {mag : Nat} (h : mag < 2 ^ 31) :
    (f32Pack neg mag).toNat = mag + if neg then 2 ^ 31 else 0 := by
  rw [f32Pack, BitVec.toNat_ofNat, Nat.mod_eq_of_lt]
  split <;> omega

theorem f32Exp_pack {neg : Bool} {mag : Nat} (h : mag < 2 ^ 31) : f32Exp (f32Pack neg mag) = mag / 2 ^ 23 := by
  rw [f32Exp, BitVec.extractLsb'_toNat, f32Pack_toNat h, Nat.shiftRight_eq_div_pow]
  split <;> omega

theorem f32Frac_pack {neg : Bool} {mag : Nat} (h : mag < 2 ^ 31) : f32Frac (f32Pack neg mag) = mag % 2 ^ 23 := by
  rw [f32Frac, BitVec.extractLsb'_toNat, f32Pack_toNat h, Nat.shiftRight_eq_div_pow]
  split <;> omega

theorem f32Sign_pack {neg : Bool} {mag : Nat} (h : mag < 2 ^ 31) : f32Sign (f32Pack neg mag) = neg := by
  rw [f32Sign, BitVec.getLsbD, f32Pack_toNat h, Nat.testBit_eq_decide_div_mod_eq]
  cases neg <;> simp <;> omega

/-- The significand R at the exponent k, a carry out of rounding included: its bits are `k * 2^23 + R`. -/
theorem f32Mag_pack {neg : Bool} {k R : Nat} (hR : R ≤ 2 ^ 24) (hk : k = 0 ∨ 2 ^ 23 ≤ R)
    (hfin : k * 2 ^ 23 + R < 255 * 2 ^ 23) : f32Mag (f32Pack neg (k * 2 ^ 23 + R)) = R * 2 ^ k := by
  have hlt : k * 2 ^ 23 + R < 2 ^ 31 := by omega
  rw [f32Mag, f32Exp_pack hlt, f32Frac_pack hlt, Nat.shiftLeft_eq]
  rcases Nat.lt_or_ge R (2 ^ 23) with hsmall | hbig
  · obtain rfl := hk.resolve_right (by omega)
    rw [if_pos (by omega)]
    omega
  · rcases Nat.lt_or_ge R (2 ^ 24) with hnorm | hcarry
    · have hexp : (k * 2 ^ 23 + R) / 2 ^ 23 = k + 1 := by omega
      rw [if_neg (by omega), hexp, Nat.add_sub_cancel]
      congr 1
      omega
    · obtain rfl : R = 2 ^ 24 := by omega
      have hexp : (k * 2 ^ 23 + 2 ^ 24) / 2 ^ 23 = k + 1 + 1 := by omega
      have hfrac : (k * 2 ^ 23 + 2 ^ 24) % 2 ^ 23 = 0 := by omega
      rw [if_neg (by omega), hexp, hfrac, Nat.add_sub_cancel, Nat.pow_succ]
      omega

/-! ## What rounding computes -/

/-- `R * 2^k` is the value `n / d` rounded to a multiple of 2^k, ties to even, where 24 significant bits are kept: k is 0,
or the value has its leading bit at 2^(23 + k). -/
structure Rounded (n d k R : Nat) : Prop where
  low : 2 * (R * (2 ^ k * d)) ≤ 2 * n + 2 ^ k * d
  high : 2 * n ≤ 2 * (R * (2 ^ k * d)) + 2 ^ k * d
  tie : 2 * (R * (2 ^ k * d)) = 2 * n + 2 ^ k * d ∨ 2 * n = 2 * (R * (2 ^ k * d)) + 2 ^ k * d → R % 2 = 0
  below : n < 2 ^ 24 * (2 ^ k * d)
  normal : k = 0 ∨ 2 ^ 23 * (2 ^ k * d) ≤ n

/-- `roundShift` rounds to the nearest, ties to even. -/
theorem roundShift_spec (m sh : Nat) :
    2 * (roundShift m sh * 2 ^ sh) ≤ 2 * m + 2 ^ sh ∧ 2 * m ≤ 2 * (roundShift m sh * 2 ^ sh) + 2 ^ sh ∧
      (2 * (roundShift m sh * 2 ^ sh) = 2 * m + 2 ^ sh ∨ 2 * m = 2 * (roundShift m sh * 2 ^ sh) + 2 ^ sh →
        roundShift m sh % 2 = 0) := by
  have hpos : 0 < 2 ^ sh := Nat.two_pow_pos sh
  have hdiv : m / 2 ^ sh * 2 ^ sh + m % 2 ^ sh = m := by rw [Nat.mul_comm]; exact Nat.div_add_mod m (2 ^ sh)
  have hmod : m % 2 ^ sh < 2 ^ sh := Nat.mod_lt m hpos
  have hrem : m - m / 2 ^ sh * 2 ^ sh = m % 2 ^ sh := by omega
  simp only [roundShift, Nat.shiftRight_eq_div_pow, Nat.shiftLeft_eq, Nat.one_mul, hrem]
  split
  · simp only [Nat.add_one_mul]
    omega
  · omega

/-- `roundMag` keeps 24 significant bits of `m / 2^g`. -/
theorem roundMag_spec (m g : Nat) : ∃ k, roundMag m g = min (k * 2 ^ 23 + roundShift m (k + g)) 0x7F800000 ∧
    m < 2 ^ 24 * 2 ^ (k + g) ∧ (k = 0 ∨ 2 ^ 23 * 2 ^ (k + g) ≤ m) := by
  refine ⟨Nat.log2 m + 1 - 24 - g, rfl, ?_, ?_⟩
  · rw [← Nat.pow_add]
    exact Nat.lt_log2_self.trans_le (Nat.pow_le_pow_right (by omega) (by omega))
  · rcases Nat.eq_zero_or_pos (Nat.log2 m + 1 - 24 - g) with h0 | h0
    · exact .inl h0
    · refine .inr ?_
      rw [← Nat.pow_add, show 23 + (Nat.log2 m + 1 - 24 - g + g) = Nat.log2 m by omega]
      exact Nat.log2_self_le (by rintro rfl; simp at h0)

/-- `m` stands for the value `n / d` at every even point: it is on the same side of it, and on it together. -/
def standsFor (m n d : Nat) : Prop := ∀ j, (m ≤ 2 * j ↔ n ≤ 2 * j * d) ∧ (2 * j ≤ m ↔ 2 * j * d ≤ n)

theorem standsFor_eq {m n d : Nat} (h : standsFor m n d) (j : Nat) : m = 2 * j ↔ n = 2 * j * d := by
  obtain ⟨hle, hge⟩ := h j
  omega

/-- Rounding at a multiple of 4 reads `m` at even points only, so it rounds the value `m` stands for. -/
theorem round_transfer {m n d q R : Nat} (h : standsFor m n d) (hlow : 2 * (R * (4 * q)) ≤ 2 * m + 4 * q)
    (hhigh : 2 * m ≤ 2 * (R * (4 * q)) + 4 * q)
    (htie : 2 * (R * (4 * q)) = 2 * m + 4 * q ∨ 2 * m = 2 * (R * (4 * q)) + 4 * q → R % 2 = 0) :
    2 * (R * (4 * (q * d))) ≤ 2 * n + 4 * (q * d) ∧ 2 * n ≤ 2 * (R * (4 * (q * d))) + 4 * (q * d) ∧
      (2 * (R * (4 * (q * d))) = 2 * n + 4 * (q * d) ∨ 2 * n = 2 * (R * (4 * (q * d))) + 4 * (q * d) → R % 2 = 0) := by
  have above : 2 * (2 * (R * q) + q) * d = 4 * (R * (q * d)) + 2 * (q * d) := by ring
  have hup := h (2 * (R * q) + q)
  have hupeq := standsFor_eq h (2 * (R * q) + q)
  rw [above] at hup hupeq
  have e1 : R * (4 * q) = 4 * (R * q) := by ring
  have e2 : R * (4 * (q * d)) = 4 * (R * (q * d)) := by ring
  rw [e1] at hlow hhigh htie
  rw [e2]
  cases R with
  | zero => omega
  | succ r =>
    have below : 2 * (2 * (r * q) + q) * d = 4 * (r * (q * d)) + 2 * (q * d) := by ring
    have hdown := h (2 * (r * q) + q)
    have hdowneq := standsFor_eq h (2 * (r * q) + q)
    rw [below] at hdown hdowneq
    simp only [Nat.add_one_mul] at *
    omega

/-- Rounding a number that stands for a value rounds the value, when at least two bits are dropped. -/
theorem rounded_of_standsFor {m g n d : Nat} (hg : 2 ≤ g) (h : standsFor m (2 ^ g * n) d) :
    ∃ k R, roundMag m g = min (k * 2 ^ 23 + R) 0x7F800000 ∧ Rounded n d k R := by
  obtain ⟨k, hmag, hlt, hge⟩ := roundMag_spec m g
  obtain ⟨hlow, hhigh, htie⟩ := roundShift_spec m (k + g)
  refine ⟨k, _, hmag, ?_⟩
  generalize roundShift m (k + g) = R at *
  obtain ⟨q, hq⟩ : ∃ q, 2 ^ (k + g) = 4 * q :=
    ⟨2 ^ (k + g - 2), by rw [show k + g = 2 + (k + g - 2) by omega, Nat.pow_add]; simp⟩
  have hP : 0 < 2 ^ g := Nat.two_pow_pos g
  have hD : 2 ^ g * (2 ^ k * d) = 4 * (q * d) := by
    rw [← Nat.mul_assoc, ← Nat.pow_add, Nat.add_comm, hq, Nat.mul_assoc]
  rw [hq] at hlow hhigh htie hlt hge
  obtain ⟨h1, h2, h3⟩ := round_transfer h hlow hhigh htie
  have hpoint : ∀ c, 2 * (c * (2 * q)) * d = 2 ^ g * (c * (2 ^ k * d)) := fun c => by
    rw [Nat.mul_left_comm (2 ^ g), hD]; ring
  rw [← hD] at h1 h2 h3
  set D := 2 ^ k * d
  set P := 2 ^ g
  have e1 : 2 * (R * (P * D)) = P * (2 * (R * D)) := by ring
  have e2 : 2 * (P * n) + P * D = P * (2 * n + D) := by ring
  have e3 : 2 * (P * n) = P * (2 * n) := by ring
  have e4 : 2 * (R * (P * D)) + P * D = P * (2 * (R * D) + D) := by ring
  rw [e2, e4, e1, e3] at h3
  rw [e1, e2] at h1
  rw [e3, e4] at h2
  refine ⟨Nat.le_of_mul_le_mul_left h1 hP, Nat.le_of_mul_le_mul_left h2 hP, fun ht => h3 ?_, ?_, ?_⟩
  · exact ht.imp (congrArg (P * ·)) (congrArg (P * ·))
  · have hpt := (h (2 ^ 24 * (2 * q))).2
    rw [hpoint] at hpt
    have hlt' : P * n < P * (2 ^ 24 * D) := by omega
    exact Nat.lt_of_mul_lt_mul_left hlt'
  · have hpt := (h (2 ^ 23 * (2 * q))).2
    rw [hpoint] at hpt
    exact hge.imp_right fun hge => Nat.le_of_mul_le_mul_left (hpt.mp (by omega)) hP

end Sys2Proof.Machine
end

section
/-! The rounded value is a nearest binary32 (40_lane_primitives R100). -/
namespace Sys2Proof.Machine

/-- Of the multiples of 2^k none is nearer to the value than the rounded one, and of two the even one is taken. -/
theorem Rounded.nearest_multiple {n d k R : Nat} (h : Rounded n d k R) (j : Int) :
    ((R : Int) * (2 ^ k * d : Nat) - n).natAbs ≤ (j * (2 ^ k * d : Nat) - n).natAbs ∧
      (((R : Int) * (2 ^ k * d : Nat) - n).natAbs = (j * (2 ^ k * d : Nat) - n).natAbs → j ≠ R → R % 2 = 0) := by
  have hlow := h.low
  have hhigh := h.high
  have htie := h.tie
  generalize 2 ^ k * d = D at *
  have hcast : ((R * D : Nat) : Int) = R * D := by push_cast; rfl
  rw [← hcast]
  rcases lt_trichotomy j R with hj | rfl | hj
  · have hmul : j * D ≤ ((R : Int) - 1) * D := Int.mul_le_mul_of_nonneg_right (by omega) (by omega)
    rw [Int.sub_mul, one_mul, ← hcast] at hmul
    omega
  · simp
  · have hmul : ((R : Int) + 1) * D ≤ j * D := Int.mul_le_mul_of_nonneg_right (by omega) (by omega)
    rw [Int.add_mul, one_mul, ← hcast] at hmul
    omega

/-- No number that is a multiple of 2^k or below 2^(23 + k) is nearer to the value than the rounded one. -/
theorem Rounded.nearest {n d k R : Nat} (h : Rounded n d k R) (hd : 0 < d) (w : Int)
    (hw : ((2 ^ k : Nat) : Int) ∣ w ∨ w.natAbs < 2 ^ 23 * 2 ^ k) :
    ((R * 2 ^ k : Nat) * (d : Int) - n).natAbs ≤ (w * d - n).natAbs ∧
      (((R * 2 ^ k : Nat) * (d : Int) - n).natAbs = (w * d - n).natAbs → w ≠ (R * 2 ^ k : Nat) → R % 2 = 0) := by
  have hR : ((R * 2 ^ k : Nat) : Int) * d = (R : Int) * (2 ^ k * d : Nat) := by push_cast; ring
  by_cases hdvd : ((2 ^ k : Nat) : Int) ∣ w
  · obtain ⟨j, rfl⟩ := hdvd
    have hj : ((2 ^ k : Nat) : Int) * j * d = j * (2 ^ k * d : Nat) := by push_cast; ring
    obtain ⟨hle, htie⟩ := h.nearest_multiple j
    rw [hR, hj]
    refine ⟨hle, fun he hne => htie he ?_⟩
    rintro rfl
    exact hne (by push_cast; ring)
  · have hk : k ≠ 0 := by rintro rfl; simp at hdvd
    have hbig := h.normal.resolve_left hk
    have hsmall := hw.resolve_left hdvd
    obtain ⟨hle, -⟩ := h.nearest_multiple (2 ^ 23 : Nat)
    have hlt : w * d < (2 ^ 23 : Nat) * (2 ^ k * d : Nat) := by
      have hw' : w < (2 ^ 23 * 2 ^ k : Nat) := by omega
      have := Int.mul_lt_mul_of_pos_right hw' (show (0 : Int) < d by omega)
      calc w * d < ((2 ^ 23 * 2 ^ k : Nat) : Int) * d := this
        _ = (2 ^ 23 : Nat) * (2 ^ k * d : Nat) := by push_cast; ring
    rw [hR]
    generalize 2 ^ k * d = D at *
    omega

/-- A finite magnitude is a multiple of 2^k, or below 2^(23 + k). -/
theorem f32Mag_dvd_or_lt (c : Binary32) (k : Nat) : 2 ^ k ∣ f32Mag c ∨ f32Mag c < 2 ^ 23 * 2 ^ k := by
  have hfrac : f32Frac c < 2 ^ 23 := (c.extractLsb' 0 23).isLt
  unfold f32Mag
  split
  · exact .inr (hfrac.trans_le (Nat.le_mul_of_pos_right _ (Nat.two_pow_pos k)))
  · rw [Nat.shiftLeft_eq]
    rcases Nat.lt_or_ge (f32Exp c - 1) k with hlt | hge
    · refine .inr ?_
      calc (f32Frac c + 2 ^ 23) * 2 ^ (f32Exp c - 1)
          < 2 ^ 24 * 2 ^ (f32Exp c - 1) := Nat.mul_lt_mul_of_pos_right (by omega) (Nat.two_pow_pos _)
        _ = 2 ^ 23 * 2 ^ (f32Exp c - 1 + 1) := by ring
        _ ≤ 2 ^ 23 * 2 ^ k := Nat.mul_le_mul_left _ (Nat.pow_le_pow_right (by omega) hlt)
    · exact .inl (Dvd.dvd.mul_left (Nat.pow_dvd_pow 2 hge) _)

/-! ## The packed result -/

theorem Rounded.le_carry {n d k R : Nat} (h : Rounded n d k R) (hd : 0 < d) : R ≤ 2 ^ 24 := by
  have hD : 0 < 2 ^ k * d := Nat.mul_pos (Nat.two_pow_pos k) hd
  have hlow := h.low
  have hbelow := h.below
  generalize 2 ^ k * d = D at *
  by_contra hc
  have : (2 ^ 24 + 1) * D ≤ R * D := Nat.mul_le_mul_right D (by omega)
  omega

theorem Rounded.ge_hidden {n d k R : Nat} (h : Rounded n d k R) (hd : 0 < d) : k = 0 ∨ 2 ^ 23 ≤ R := by
  have hD : 0 < 2 ^ k * d := Nat.mul_pos (Nat.two_pow_pos k) hd
  have hhigh := h.high
  refine h.normal.imp_right fun hn => ?_
  generalize 2 ^ k * d = D at *
  by_contra hc
  have : R * D ≤ (2 ^ 23 - 1) * D := Nat.mul_le_mul_right D (by omega)
  omega

/-- Rounding overflows exactly from half a unit above the largest finite value on (40_lane_primitives R100). -/
theorem Rounded.overflow_iff {n d k R : Nat} (h : Rounded n d k R) (hd : 0 < d) :
    255 * 2 ^ 23 ≤ k * 2 ^ 23 + R ↔ (2 ^ 25 - 1) * (2 ^ 252 * d) ≤ n := by
  have hE : 0 < 2 ^ 252 * d := Nat.mul_pos (Nat.two_pow_pos 252) hd
  have hcarry := h.le_carry hd
  have hhidden := h.ge_hidden hd
  have hlow := h.low
  have hhigh := h.high
  have htie := h.tie
  have hbelow := h.below
  have hnormal := h.normal
  rcases lt_trichotomy k 253 with hk | rfl | hk
  · have hle : 2 ^ k * d ≤ 2 ^ 252 * d := Nat.mul_le_mul_right d (Nat.pow_le_pow_right (by omega) (by omega))
    generalize 2 ^ k * d = D at *
    generalize 2 ^ 252 * d = E at *
    omega
  · have hD : 2 ^ 253 * d = 2 * (2 ^ 252 * d) := by ring
    rw [hD] at hlow hhigh htie
    generalize 2 ^ 252 * d = E at *
    rcases Nat.lt_or_ge R (2 ^ 24) with hR | hR
    · rcases Nat.lt_or_ge R (2 ^ 24 - 1) with hR' | hR'
      · have : R * (2 * E) ≤ (2 ^ 24 - 2) * (2 * E) := Nat.mul_le_mul_right _ (by omega)
        omega
      · obtain rfl : R = 2 ^ 24 - 1 := by omega
        omega
    · obtain rfl : R = 2 ^ 24 := by omega
      omega
  · have hle : 2 ^ 254 * d ≤ 2 ^ k * d := Nat.mul_le_mul_right d (Nat.pow_le_pow_right (by omega) hk)
    have hD : 2 ^ 254 * d = 4 * (2 ^ 252 * d) := by ring
    rw [hD] at hle
    generalize 2 ^ k * d = D at *
    generalize 2 ^ 252 * d = E at *
    omega

/-- The sign's factor. -/
def signOf (neg : Bool) : Int := if neg then -1 else 1

/-- Taking the sign to the other number keeps a distance. -/
theorem natAbs_sub_signOf (neg : Bool) (a b : Int) :
    (a - signOf neg * b).natAbs = (signOf neg * a - b).natAbs := by
  cases neg
  · simp [signOf]
  · simp only [signOf, ↓reduceIte, neg_one_mul]
    omega

theorem signOf_mul_mul (neg : Bool) (a b : Int) : signOf neg * (signOf neg * a * b) = a * b := by
  cases neg <;> simp [signOf]

theorem signOf_mul_self (neg : Bool) (a : Int) : signOf neg * (signOf neg * a) = a := by
  cases neg <;> simp [signOf]

theorem f32Units_natAbs (c : Binary32) : (f32Units c).natAbs = f32Mag c := by
  unfold f32Units
  split <;> simp

theorem f32Units_pack {neg : Bool} {mag : Nat} (h : mag < 2 ^ 31) :
    f32Units (f32Pack neg mag) = signOf neg * f32Mag (f32Pack neg mag) := by
  rw [f32Units, f32Sign_pack h]
  cases neg <;> simp [signOf]

/-- A rounded value, packed with its sign, is the binary32 nearest to it. -/
theorem Rounded.nearestTo_pack {n d k R : Nat} (h : Rounded n d k R) (hd : 0 < d) (neg : Bool) :
    nearestTo (signOf neg * n) d (f32Pack neg (min (k * 2 ^ 23 + R) 0x7F800000)) := by
  have hlt : min (k * 2 ^ 23 + R) 0x7F800000 < 2 ^ 31 := by omega
  have hover := h.overflow_iff hd
  have habs : (signOf neg * (n : Int)).natAbs = n := by cases neg <;> simp [signOf]
  refine ⟨?_, ?_, fun hn => ?_, fun hfin c hc => ?_⟩
  · simp only [f32IsNaN, f32Exp_pack hlt, f32Frac_pack hlt, Bool.and_eq_false_iff, beq_eq_false_iff_ne, bne_eq_false_iff_eq]
    omega
  · rw [habs, Nat.mul_assoc, ← hover]
    simp only [f32IsInf, f32Exp_pack hlt, f32Frac_pack hlt, Bool.and_eq_true, beq_iff_eq]
    omega
  · rw [f32Sign_pack hlt]
    cases neg
    · simp [signOf]
    · simp [signOf] at hn ⊢
      omega
  · have hbits : k * 2 ^ 23 + R < 255 * 2 ^ 23 := by
      simp only [f32IsFinite, f32Exp_pack hlt, bne_iff_ne] at hfin
      omega
    have hmin : min (k * 2 ^ 23 + R) 0x7F800000 = k * 2 ^ 23 + R := by omega
    rw [hmin] at hlt ⊢
    have hmag := f32Mag_pack (neg := neg) (h.le_carry hd) (h.ge_hidden hd) hbits
    have hw : ((2 ^ k : Nat) : Int) ∣ signOf neg * f32Units c ∨ (signOf neg * f32Units c).natAbs < 2 ^ 23 * 2 ^ k := by
      have habs' : (signOf neg * f32Units c).natAbs = f32Mag c := by
        rw [← f32Units_natAbs]; cases neg <;> simp [signOf]
      rw [Int.natCast_dvd, habs']
      exact f32Mag_dvd_or_lt c k
    obtain ⟨hle, htie⟩ := h.nearest hd _ hw
    rw [f32Units_pack hlt, hmag, natAbs_sub_signOf, natAbs_sub_signOf, signOf_mul_mul, ← Int.mul_assoc]
    refine ⟨hle, fun he hne => ?_⟩
    have heven := htie he fun hc => hne (by rw [← hc, signOf_mul_self])
    rw [f32Frac_pack hlt]
    omega

end Sys2Proof.Machine
end

section
/-! The host's command text as accesses, the values of its lines, and WAIT's repetition (30_encoding R89 to R92). -/
namespace Sys2Proof.Machine

/-! ## Values -/

/-- The scaled decimal, its last bit set when the division is not exact, stands for the exact quotient. -/
theorem standsFor_sticky (num : Nat) {den : Nat} (hd : 0 < den) :
    standsFor (2 * (num / den) + if num % den = 0 then 0 else 1) (2 * num) den := by
  intro j
  have hge : j ≤ num / den ↔ j * den ≤ num := Nat.le_div_iff_mul_le hd
  have hgt : num / den < j ↔ num < j * den := Nat.div_lt_iff_lt_mul hd
  have hassoc : 2 * j * den = 2 * (j * den) := Nat.mul_assoc 2 j den
  rw [hassoc]
  split
  · rename_i h0
    have hle : num / den ≤ j ↔ num ≤ j * den := Nat.div_le_iff_le_mul_of_dvd hd.ne' (Nat.dvd_of_mod_eq_zero h0)
    omega
  · rename_i h0
    have hne : num ≠ j * den := by rintro rfl; simp at h0
    omega

/-- A decimal float's pattern is the binary32 nearest to it (30_encoding R90). -/
theorem f32OfDecimal_nearest (neg : Bool) (digits places : Nat) :
    nearestTo (signOf neg * ((digits * 2 ^ 149 : Nat) : Int)) (10 ^ places) (f32OfDecimal neg digits places) := by
  have hd : 0 < 10 ^ places := Nat.pow_pos (by omega)
  have hst := standsFor_sticky (digits <<< 152) hd
  have hscale : 2 * (digits <<< 152) = 2 ^ 4 * (digits * 2 ^ 149) := by rw [Nat.shiftLeft_eq]; ring
  rw [hscale] at hst
  obtain ⟨k, R, hmag, hr⟩ := rounded_of_standsFor (by omega) hst
  have h := hr.nearestTo_pack hd neg
  rw [← hmag] at h
  exact h

theorem f32OfDecimal_zero (neg : Bool) (places : Nat) :
    f32OfDecimal neg 0 places = if neg then 0x80000000 else 0x00000000 := by
  have hz : f32OfDecimal neg 0 places = f32Pack neg (roundMag 0 4) := by simp [f32OfDecimal]
  rw [hz]
  cases neg <;> decide

/-! ## Lines -/

theorem RegName.offset_mem (r : RegName) : (r, r.offset) ∈ windowRegisters := by
  cases r with
  | param p => cases p <;> decide
  | cmd | status | ctrl | id => decide

/-- The four FILL words at most are taken from the numbers below n. -/
theorem filterMap_range_four {α : Type} (f : Nat → α) (n : Nat) :
    (List.range n).filterMap (fun w => if w < 4 then some (f w) else none) = (List.range (min n 4)).map f := by
  induction n with
  | zero => rfl
  | succ n ih =>
    rw [List.range_succ, List.filterMap_append, ih]
    by_cases h : n < 4
    · rw [Nat.min_eq_left h, Nat.min_eq_left h.le, List.range_succ, List.map_append]
      simp [h]
    · rw [Nat.min_eq_right (by omega), Nat.min_eq_right (by omega)]
      simp [h]

/-- `FILLV p` writes the FILL words in use, at least the first (30_encoding R91). -/
theorem fillEvents_eq (c : Platform) (e : Nat) (p : Pixel) :
    fillEvents c e p = (List.range (min (max 1 (fillWords (c.pixelBits e))) 4)).map
      fun w => Event.hostWrite (c.base e + 0x40 + 4 * w) 4 (p.extractLsb' (32 * w) 32) := by
  unfold fillEvents
  generalize fillWords (c.pixelBits e) = n
  obtain rfl | rfl | rfl | rfl | hn : n = 0 ∨ n = 1 ∨ n = 2 ∨ n = 3 ∨ 4 ≤ n := by omega
  · rfl
  · rfl
  · rfl
  · rfl
  · rw [Nat.max_eq_right (by omega), Nat.min_eq_right hn]
    simp only [List.filter_cons, show 1 < n by omega, show 2 < n by omega, show 3 < n by omega, decide_true,
      ↓reduceIte]
    rfl

theorem toNat_append_eq_add {n m : Nat} (x : BitVec n) (y : BitVec m) :
    (x ++ y).toNat = x.toNat * 2 ^ m + y.toNat := by
  rw [BitVec.toNat_append, ← Nat.shiftLeft_add_eq_or_of_lt y.isLt, Nat.shiftLeft_eq]

theorem encode_map_toNat {src : Nat} (h : src < 256) : (encode (.map src)).toNat = 0x00000004 + 256 * src := by
  have hs : (BitVec.ofNat 8 src).toNat = src := by rw [BitVec.toNat_ofNat]; omega
  unfold encode formatC
  rw [toNat_append_eq_add, toNat_append_eq_add, toNat_append_eq_add, hs]
  change ((0 * 2 ^ 8 + src) * 2 ^ 4 + 0) * 2 ^ 4 + 4 = 0x00000004 + 256 * src
  omega

/-- The accesses of the lines (30_encoding R89 to R91). -/
theorem assemble_lines (c : Platform) (e : Nat) (px py sx sy z0 z1 z2 handle shader : AsmValue) (fill : Pixel)
    (src : Nat) :
    assemble c e (.tri px py sx sy z0 z1 z2 handle shader) =
      ([(0x10, px.word), (0x14, py.word), (0x18, sx.word), (0x1C, sy.word), (0x20, z0.word), (0x24, z1.word),
        (0x28, z2.word), (0x2C, handle.word), (0x30, shader.word)].map
        fun x => Event.hostWrite (c.base e + x.1) 4 x.2) ∧
    assemble c e (.origin px py) = [.hostWrite (c.base e + 0x38) 4 px.word, .hostWrite (c.base e + 0x3C) 4 py.word] ∧
    assemble c e (.mapwith px src) =
      [.hostWrite (c.base e + 0x34) 4 px.word, .hostWrite (c.base e) 4 (encode (.map src))] ∧
    assemble c e (.new fill) = assemble c e (.fillv fill) ++ [.hostWrite (c.base e) 4 0x00000001] ∧
    assemble c e (.fillv fill) = (List.range (max 1 (fillWords (c.pixelBits e)))).filterMap (fun w =>
      if w < 4 then some (Event.hostWrite (c.base e + 0x40 + 4 * w) 4 (fill.extractLsb' (32 * w) 32)) else none) ∧
    assemble c e .ack = [.hostWrite (c.base e + 0x08) 4 0x00000001] ∧
    assemble c e .wait = [.hostWait (c.base e + 0x04)] ∧
    (∀ i : Instr, assemble c e (.command i) = [.hostWrite (c.base e) 4 (encode i)]) ∧
    ∀ (r : RegName) (v : AsmValue), ∃ off, (r, off) ∈ windowRegisters ∧
      assemble c e (.wr r v) = [.hostWrite (c.base e + off) 4 v.word] ∧
      assemble c e (.rd r) = [.hostRead (c.base e + off) 4] :=
  ⟨rfl, rfl, rfl, rfl, by rw [filterMap_range_four]; exact fillEvents_eq c e fill, rfl, rfl, fun _ => rfl,
    fun r _ => ⟨r.offset, r.offset_mem, rfl, rfl⟩⟩

/-! ## WAIT -/

/-- One poll of a WAIT on an engine's STATUS: the read, and where the coming events go on (30_encoding R91). -/
theorem step_wait {s : State} {e : Nat} {g : Engine} {rest : List Event} (hc : s.cfg.Wf) (hg : s.engine e = some g)
    (he : e < s.cfg.numEngines) (hin : s.inputs = .hostWait (s.cfg.base e + 4) :: rest) :
    step s = .next { s with
      inputs := if g.busy then waitBehind { s with inputs := rest } (.hostWait (s.cfg.base e + 4)) rest else rest
      history := .hostRead e 4 g.status :: s.history } := by
  have hl : locate s.cfg (s.cfg.base e + 4) = some (e, 4) := locate_window hc he (by omega)
  have hbusy : waitAgain g.status = g.busy := by
    rw [waitAgain, Engine.status, BitVec.getLsbD_append, if_pos (by omega)]
    cases g.busy <;> rfl
  rw [step_cons hin]
  simp only [applyEvent, hostWait]
  refine (hostReadThen_eq { s with inputs := rest } _ e 4 g _ hl rfl hg).trans ?_
  have hread : readReg s.cfg e g 4 = g.status := rfl
  cases hb : g.busy <;> simp [hread, hbusy, hb, State.log]

/-- The lowest engine that has a step is the ready one (assumption log 18). -/
theorem firstReady_eq_some {s : State} {d : Nat} (h : (engineStep s d).isSome = true)
    (hlow : ∀ d' < d, engineStep s d' = none) : firstReady s = some d := by
  have hd : d < s.engines.length := by
    cases hg : s.engine d with
    | none => simp [engineStep, hg] at h
    | some g => exact s.length_engines_of_engine d g hg
  rw [firstReady, List.find?_range_eq_some]
  exact ⟨h, List.mem_range.mpr hd, fun d' hd' => by simp [hlow d' hd']⟩

theorem firstReady_eq_none {s : State} (h : ∀ d, engineStep s d = none) : firstReady s = none := by
  simp [firstReady, h]

/-- An engine has no step exactly when it has none with other coming events. -/
theorem engineStep_eq_none_inputs {s : State} {l : List Event} {d : Nat} :
    engineStep { s with inputs := l } d = none ↔ engineStep s d = none := by
  rw [← Option.isNone_iff_eq_none, ← Option.isNone_iff_eq_none, ← Option.not_isSome, ← Option.not_isSome,
    engineStep_isSome_inputs]

/-- With only host accesses listed, the lowest engine that has a step moves between two polls. -/
theorem waitBehind_ready {s : State} {wait : Event} {rest : List Event} (h : ∀ ev ∈ rest, ev.isHost = true) {d : Nat}
    (hr : firstReady s = some d) : waitBehind s wait rest = .engine d :: wait :: rest := by
  have hf : rest.find? (fun ev => !ev.isHost) = none := by simpa using h
  simp [waitBehind, hf, hr]

/-- With only host accesses listed and no engine that has a step, the WAIT polls again. -/
theorem waitBehind_none {s : State} {wait : Event} {rest : List Event} (h : ∀ ev ∈ rest, ev.isHost = true)
    (hr : firstReady s = none) : waitBehind s wait rest = wait :: rest := by
  have hf : rest.find? (fun ev => !ev.isHost) = none := by simpa using h
  simp [waitBehind, hf, hr]

/-- A WAIT that must poll again stays the host's next access, and another agent moves first (30_encoding R91). -/
theorem wait_goes_on {s : State} {wait : Event} {rest : List Event} (hw : wait.isHost = true)
    (hin : s.inputs = wait :: rest) (later : List Event)
    (hl : later = waitBehind { s with inputs := rest } wait rest) :
    later.filter Event.isHost = s.inputs.filter Event.isHost ∧
      (∀ ev ∈ rest, ev.isHost = false → later.filter (fun ev => !ev.isHost) = rest.filter (fun ev => !ev.isHost) ∧
        ∃ next tail, later = next :: tail ∧ next.isHost = false) ∧
      ((∀ ev ∈ rest, ev.isHost = true) →
        (∀ d, (engineStep s d).isSome = true → (∀ d' < d, engineStep s d' = none) → later = .engine d :: s.inputs) ∧
        ((∀ d, engineStep s d = none) → later = s.inputs)) := by
  subst hl
  refine ⟨?_, fun ev hev hnot => ?_, fun hall => ⟨fun d hd hlow => ?_, fun hnone => ?_⟩⟩
  · rw [waitBehind_isHost _ _ _ hw, hin, List.filter_cons_of_pos hw]
  · cases hf : rest.find? (fun ev => !ev.isHost) with
    | none => exact absurd (List.find?_eq_none.mp hf ev hev) (by simp [hnot])
    | some ev' =>
      obtain ⟨hhead, hfilter⟩ := waitBehind_listed { s with inputs := rest } wait ev' rest hw hf
      obtain ⟨tail, htail⟩ := List.head?_eq_some_iff.mp hhead
      exact ⟨hfilter, ev', tail, htail, by simpa using List.find?_some hf⟩
  · have hready : firstReady { s with inputs := rest } = some d :=
      firstReady_eq_some (by rw [engineStep_isSome_inputs]; exact hd)
        fun d' hd' => engineStep_eq_none_inputs.mpr (hlow d' hd')
    rw [waitBehind_ready hall hready, hin]
  · have hready : firstReady { s with inputs := rest } = none :=
      firstReady_eq_none fun d => engineStep_eq_none_inputs.mpr (hnone d)
    rw [waitBehind_none hall hready, hin]

/-- Settles O39. -/
theorem pseudoInstructions : Obligations.PseudoInstructions := by
  refine ⟨assemble_lines, ⟨by decide, by decide, by decide, fun src h => encode_map_toNat h⟩, fun _ => rfl,
    fun k hk => Nat.mod_eq_of_lt hk, fun neg digits places =>
      ⟨f32OfDecimal_nearest neg digits places, f32OfDecimal_zero neg places⟩, ?_⟩
  intro s e g rest hc hg he hin
  have hin' : s.inputs = .hostWait (s.cfg.base e + 4) :: rest := hin
  refine ⟨_, step_wait hc hg he hin', fun hb => by simp [hb], fun hb => ?_⟩
  exact wait_goes_on rfl hin' _ (by rw [if_pos hb])

end Sys2Proof.Machine
end

section
/-! The register window: what each offset reads and writes, where an access stops, the order of the bytes, and the
fill pixel (20_memory R60 to R66). -/
namespace Sys2Proof.Machine

/-! ## Offsets and registers (10_state R30) -/

/-- The parameter registers stand at 0x10 to 0x4C. -/
theorem paramAt_eq_some_iff {off : Nat} {r : Param} : paramAt off = some r ↔ off = 0x10 + 4 * r.place.val := by
  refine ⟨paramAt_eq_some, ?_⟩
  rintro rfl
  cases r <;> rfl

theorem paramAt_eq_none {off : Nat} (h : off < 0x10 ∨ 0x50 ≤ off) : paramAt off = none := by
  cases hp : paramAt off with
  | none => rfl
  | some r =>
    have hoff := paramAt_eq_some hp
    have hlt := r.place.isLt
    omega

/-! ## Register reads (20_memory R63) -/

theorem readReg_param (c : Platform) (e : Nat) (g : Engine) (r : Param) :
    readReg c e g (0x10 + 4 * r.place.val) = g.param r := by
  rw [readReg, paramAt_eq_some_iff.mpr rfl]

theorem readReg_status (c : Platform) (e : Nat) (g : Engine) : readReg c e g 0x04 = g.status := rfl

theorem readReg_zero (c : Platform) (e : Nat) (g : Engine) {off : Nat} (h : off = 0x00 ∨ off = 0x08 ∨ 0x50 ≤ off) :
    readReg c e g off = 0 := by
  rw [readReg, paramAt_eq_none (by omega)]
  simp only
  rw [if_neg (by omega), if_neg (by omega)]

/-- A parameter write shows at no other offset. -/
theorem readReg_setParam_ne (c : Platform) (e : Nat) (g : Engine) (v : Word) {r : Param} {off : Nat}
    (h : off ≠ 0x10 + 4 * r.place.val) : readReg c e (g.setParam r v) off = readReg c e g off := by
  unfold readReg
  cases hp : paramAt off with
  | none => rfl
  | some r' =>
    have hne : r ≠ r' := by rintro rfl; exact h (paramAt_eq_some hp)
    simp [setParam_param, hne]

/-! ## Register writes (20_memory R62) -/

theorem writeReg_param (s : State) (e : Nat) (r : Param) (v : Word) :
    writeReg s e (0x10 + 4 * r.place.val) v = s.modifyEngine e fun g => g.setParam r v := by
  rw [writeReg, paramAt_eq_some_iff.mpr rfl]

theorem writeReg_ctrl (s : State) (e : Nat) {v : Word} (hv : v.getLsbD 0 = true) :
    writeReg s e 0x08 v = s.acknowledge e := by
  rw [writeReg, paramAt_eq_none (.inl (by decide))]
  exact if_pos ⟨rfl, hv⟩

theorem writeReg_ctrl_clear (s : State) (e : Nat) {v : Word} (hv : v.getLsbD 0 = false) :
    writeReg s e 0x08 v = s := by
  rw [writeReg, paramAt_eq_none (.inl (by decide))]
  exact if_neg fun h => Bool.eq_false_iff.mp hv h.2

theorem writeReg_ignored (s : State) (e : Nat) (v : Word) {off : Nat}
    (h : off = 0x00 ∨ off = 0x04 ∨ off = 0x0C ∨ 0x50 ≤ off) : writeReg s e off v = s := by
  rw [writeReg, paramAt_eq_none (by omega)]
  simp only
  rw [if_neg (by omega)]

/-! ## Accesses of an aligned word in a window -/

/-- A host write with the reset input released records the access, and presents the word or writes the register. -/
theorem step_hostWrite {s : State} {e off : Nat} {v : Word} {rest : List Event} (hc : s.cfg.Wf)
    (he : e < s.cfg.numEngines) (hoff : off < 0x100) (ho : off % 4 = 0) (hr : s.inReset = false)
    (hin : s.inputs = .hostWrite (s.cfg.base e + off) 4 v :: rest) :
    step s = if off = 0
      then presentWord { s with inputs := rest, history := .hostWrote e off v :: s.history } e v
      else .next (writeReg { s with inputs := rest, history := .hostWrote e off v :: s.history } e off v) := by
  rw [step_cons hin]
  refine (hostAccess_aligned (writeAt _ v) (locate_window hc he hoff) ho).trans ?_
  simp [writeAt, hr, State.log]

/-- Settles O33, row by row of the table. -/
theorem hostWriteTable : Obligations.HostWriteTable := by
  intro s e off g v rest hc hg he hoff ho hr hin s0
  have hg0 : s0.engine e = some g := hg
  have hstep : step s = if off = 0 then presentWord s0 e v else .next (writeReg s0 e off v) :=
    step_hostWrite hc he hoff ho hr hin
  have hreg (hne : off ≠ 0) : step s = .next (writeReg s0 e off v) := hstep.trans (if_neg hne)
  refine ⟨fun h => hstep.trans (if_pos h), fun h => ?_, ?_, ?_, ?_⟩
  · rw [hreg (by omega), writeReg_ignored s0 e v (by omega)]
  · rintro rfl hv
    rw [hreg (by decide), writeReg_ctrl s0 e hv]
    exact congrArg Host.Outcome.next (modify_eq_set hg0 _)
  · rintro rfl hv
    rw [hreg (by decide), writeReg_ctrl_clear s0 e hv]
  · rintro r rfl
    rw [hreg (by omega), writeReg_param, modify_eq_set hg0]
    rfl

/-- A host read records the access with the register's value, and changes nothing else. -/
theorem step_hostRead {s : State} {e off : Nat} {g : Engine} {rest : List Event} (hc : s.cfg.Wf)
    (hg : s.engine e = some g) (he : e < s.cfg.numEngines) (hoff : off < 0x100) (ho : off % 4 = 0)
    (hin : s.inputs = .hostRead (s.cfg.base e + off) 4 :: rest) :
    step s = .next { s with
      inputs := rest, history := .hostRead e off (readReg s.cfg e g off) :: s.history } := by
  rw [step_cons hin]
  exact hostReadThen_eq { s with inputs := rest } _ e off g (fun _ s' => s') (locate_window hc he hoff) ho hg

/-- Settles O34, row by row of the table. -/
theorem hostReadTable : Obligations.HostReadTable := by
  intro s e off g rest hc hg he hoff ho hin
  refine ⟨readReg s.cfg e g off, step_hostRead hc hg he hoff ho hin, readReg_zero s.cfg e g, ?_, ?_, ?_⟩
  · rintro rfl; exact readReg_status s.cfg e g
  · rintro rfl; exact readReg_id s.cfg e g
  · rintro r rfl; exact readReg_param s.cfg e g r

/-! ## Accesses that stop (20_memory R60, R64, R70) -/

theorem hostAccess_refused {s : State} {addr width e off : Nat} (act : Nat → Nat → Outcome)
    (hl : locate s.cfg addr = some (e, off)) (hbad : width ≠ 4 ∨ off % 4 ≠ 0) :
    hostAccess s addr width act = .refused (.badAccess s.cfg.busErrorOnBadAccess) := by
  have hw : wordAccess off width = false := by simpa [wordAccess, imp_iff_not_or] using hbad
  simp [hostAccess, hl, hw]

/-- Settles O36: every host event is an access, and a WAIT polls 4 bytes. -/
theorem badAccessStops : Obligations.BadAccessStops := by
  intro s addr width e off v rest hl hbad
  refine ⟨fun hin => ?_, fun hin => ?_, fun hin ho => ?_⟩ <;> rw [step_cons hin]
  · exact hostAccess_refused (s := { s with inputs := rest }) _ hl hbad
  · exact hostAccess_refused (s := { s with inputs := rest }) _ hl hbad
  · exact hostAccess_refused (s := { s with inputs := rest }) _ hl (.inr ho)

theorem locateFrom_eq_none {k : Nat} {l : List EngineConfig} {addr : Nat}
    (h : ∀ c ∈ l, addr < c.base ∨ c.base + 0x100 ≤ addr) : locateFrom k l addr = none := by
  induction l generalizing k with
  | nil => rfl
  | cons c rest ih =>
    have hc := h c List.mem_cons_self
    rw [locateFrom, if_neg (by omega)]
    exact ih fun c' hc' => h c' (List.mem_cons_of_mem c hc')

theorem hostAccess_unmapped {s : State} {addr : Nat} (width : Nat) (act : Nat → Nat → Outcome)
    (h : ∀ k ∈ s.cfg.engines, addr < k.base ∨ k.base + 0x100 ≤ addr) :
    hostAccess s addr width act = .fault .unmappedAddress := by
  have hl : locate s.cfg addr = none := locateFrom_eq_none h
  simp [hostAccess, hl]

/-- Settles O37: every host event is an access, and no window holds its address. -/
theorem unmappedStops : Obligations.UnmappedStops := by
  intro s addr width v rest hout
  refine ⟨fun hin => ?_, fun hin => ?_, fun hin => ?_⟩ <;> rw [step_cons hin] <;>
    exact hostAccess_unmapped (s := { s with inputs := rest }) _ _ hout

/-! ## The bytes of a window (20_memory R65) -/

/-- A located address is its engine's base and the offset. -/
theorem locateFrom_addr {k : Nat} {l : List EngineConfig} {addr e off : Nat}
    (h : locateFrom k l addr = some (e, off)) : ∃ c, k ≤ e ∧ l[e - k]? = some c ∧ addr = c.base + off := by
  induction l generalizing k with
  | nil => simp [locateFrom] at h
  | cons c rest ih =>
    rw [locateFrom] at h
    split at h
    · obtain ⟨rfl, rfl⟩ := Prod.mk.inj (Option.some.inj h)
      exact ⟨c, le_rfl, by simp, by omega⟩
    · obtain ⟨c', hk, hc', haddr⟩ := ih h
      refine ⟨c', by omega, ?_, haddr⟩
      rw [show e - k = e - (k + 1) + 1 by omega, List.getElem?_cons_succ, hc']

theorem locate_addr {c : Platform} {addr e off : Nat} (h : locate c addr = some (e, off)) : addr = c.base e + off := by
  obtain ⟨k, -, hk, haddr⟩ := locateFrom_addr h
  simpa [Platform.base, show c.engines[e]? = some k from hk] using haddr

/-- Byte j of the register at an aligned offset. -/
theorem windowByte_register {s : State} {e : Nat} {g : Engine} (hc : s.cfg.Wf) (hg : s.engine e = some g)
    (he : e < s.cfg.numEngines) {off j : Nat} (hoff : off < 0x100) (ho : off % 4 = 0) (hj : j < 4) :
    windowByte s (s.cfg.base e + off + j) = some ((readReg s.cfg e g off).extractLsb' (8 * j) 8) := by
  have hl : locate s.cfg (s.cfg.base e + off + j) = some (e, off + j) := by
    rw [Nat.add_assoc]; exact locate_window hc he (by omega)
  have hword : off + j - (off + j) % 4 = off := by omega
  have hbyte : (off + j) % 4 = j := by omega
  simp only [windowByte, hl, hg, Option.map_some]
  rw [hword, hbyte, byteOfWord]

/-- A parameter write shows at no address but the register's four. -/
theorem windowByte_setParam_ne {s : State} {e : Nat} {r : Param} {v : Word} {addr : Nat}
    (h : ∀ j, j < 4 → addr ≠ s.cfg.base e + 0x10 + 4 * r.place.val + j) :
    windowByte (s.modifyEngine e fun g => g.setParam r v) addr = windowByte s addr := by
  simp only [windowByte, State.modifyEngine_cfg]
  cases hl : locate s.cfg addr with
  | none => rfl
  | some x =>
    obtain ⟨e', off⟩ := x
    by_cases hee : e = e'
    · subst hee
      have haddr := locate_addr hl
      have hne : off - off % 4 ≠ 0x10 + 4 * r.place.val := fun hword =>
        h (off % 4) (Nat.mod_lt _ (by decide)) (by omega)
      simp only [State.engine_modifyEngine_self, Option.map_map]
      congr 1
      funext g
      simp [readReg_setParam_ne _ _ _ _ hne]
    · simp only [State.engine_modifyEngine_ne _ _ _ _ hee]

/-- Settles O38: a write shows at its own register, and every located byte belongs to one register. -/
theorem windowByteOrder : Obligations.WindowByteOrder := by
  intro s e g r v hc hg he
  rw [writeReg_param]
  refine ⟨fun off j hoff ho hj => windowByte_register hc hg he hoff ho hj, fun j hj => ?_,
    fun addr haddr => windowByte_setParam_ne haddr⟩
  have hg' : (s.modifyEngine e fun g => g.setParam r v).engine e = some (g.setParam r v) := by simp [hg]
  have hplace := r.place.isLt
  have hbyte := windowByte_register (s := s.modifyEngine e _) (off := 0x10 + 4 * r.place.val) (j := j) hc hg' he
    (by omega) (by omega) hj
  rw [readReg_param, setParam_param, if_pos rfl] at hbyte
  rwa [State.modifyEngine_cfg, ← Nat.add_assoc] at hbyte

/-! ## The fill pixel (20_memory R66) -/

/-- Bit j of the fill pixel is a bit of FILL register `j div 32`. -/
theorem fillPixel_getLsbD (g : Engine) (pb : Nat) {j : Nat} {r : Param}
    (hr : [Param.fill0, .fill1, .fill2, .fill3][j / 32]? = some r) :
    (g.fillPixel pb).getLsbD j = (decide (j < pb) && (g.param r).getLsbD (j % 32)) := by
  rw [Engine.fillPixel, packFill_getLsbD]
  obtain ⟨hlt, rfl⟩ := List.getElem?_eq_some_iff.mp hr
  congr 1
  have hw : j / 32 = 0 ∨ j / 32 = 1 ∨ j / 32 = 2 ∨ j / 32 = 3 := by simp at hlt; omega
  rcases hw with hw | hw | hw | hw
  · simp only [hw]
    rw [if_pos (by omega), Nat.mod_eq_of_lt (by omega)]; rfl
  · simp only [hw]
    rw [if_neg (by omega), if_pos (by omega), show j - 32 = j % 32 by omega]; rfl
  · simp only [hw]
    rw [if_neg (by omega), if_neg (by omega), if_pos (by omega), show j - 64 = j % 32 by omega]; rfl
  · simp only [hw]
    rw [if_neg (by omega), if_neg (by omega), if_neg (by omega), show j - 96 = j % 32 by omega]; rfl

/-- FILL register `w` is used when the pixel has bits in word `w` (10_state R36). -/
theorem mem_usesClear {pb w : Nat} {r : Param} (hw : w < fillWords pb)
    (hr : [Param.fill0, .fill1, .fill2, .fill3][w]? = some r) : r ∈ usesClear pb := by
  refine List.mem_of_getElem? (i := w) ?_
  rw [usesClear, List.getElem?_take, if_pos hw, hr]

/-- The FILL registers, numbered. -/
theorem numbered_fill {w : Nat} {r : Param} :
    [(0, Param.fill0), (1, .fill1), (2, .fill2), (3, .fill3)][w]? = some (w, r) ↔
      [Param.fill0, .fill1, .fill2, .fill3][w]? = some r := by
  match w with
  | 0 | 1 | 2 | 3 => simp
  | w + 4 => simp

/-- Settles O16, bit by bit; the registers that CLEAR uses are all that have a bit below PIXEL_BITS. -/
theorem fillPacking : Obligations.FillPacking := by
  intro pb g hpb
  refine ⟨fun j => ⟨fun hbit => ?_, ?_⟩, fun g' hsame => ?_⟩
  · have hj : j < pb := by
      by_contra hge
      simp [Engine.fillPixel, packFill_getLsbD, hge] at hbit
    have hw : j / 32 < [Param.fill0, .fill1, .fill2, .fill3].length := by simp; omega
    have hr := List.getElem?_eq_getElem hw
    rw [fillPixel_getLsbD g pb hr] at hbit
    exact ⟨hj, _, _, numbered_fill.mpr hr, rfl, by simpa [hj] using hbit⟩
  · rintro ⟨hj, w, r, hr, rfl, hbit⟩
    rw [fillPixel_getLsbD g pb (numbered_fill.mp hr)]
    simp [hj, hbit]
  · exact packFill_congr _ _ _ _ _ _ _ _ _ (fun hw => hsame _ (mem_usesClear hw rfl))
      (fun hw => hsame _ (mem_usesClear hw rfl)) (fun hw => hsame _ (mem_usesClear hw rfl))
      (fun hw => hsame _ (mem_usesClear hw rfl))

end Sys2Proof.Machine
end

section
/-! A register write that is no command word commutes with every engine's step (20_memory R72), and a running MAP's
source keeps its COLOR (20_memory R76). -/
namespace Sys2Proof.Machine

/-! ## The engine fields that the host writes (10_state R32, R35, R37) -/

/-- A change of the parameter registers, their VALID bits, FAULT and FAULT_CODE, each as a function of its old value. -/
structure HostUpdate where
  params : Vector Word 16 → Vector Word 16
  valid : Vector Bool 16 → Vector Bool 16
  fault : Bool → Bool
  code : BitVec 4 → BitVec 4

/-- The engine with the host's fields changed. -/
def HostUpdate.apply (u : HostUpdate) (g : Engine) : Engine :=
  { g with params := u.params g.params, valid := u.valid g.valid, fault := u.fault g.fault, code := u.code g.code }

/-- The update that changes nothing. -/
def HostUpdate.none : HostUpdate := ⟨id, id, id, id⟩

@[simp] theorem HostUpdate.apply_seq (u : HostUpdate) (g : Engine) : (u.apply g).seq = g.seq := rfl
@[simp] theorem HostUpdate.apply_port (u : HostUpdate) (g : Engine) : (u.apply g).port = g.port := rfl

theorem State.modifyEngine_none (s : State) (e : Nat) : s.modifyEngine e HostUpdate.none.apply = s := by
  rw [State.modifyEngine, show HostUpdate.none.apply = id from rfl, List.modify_id]

/-- Every register write is one such change of its engine, the same in every state (20_memory R62). -/
theorem writeReg_eq_hostUpdate (e off : Nat) (v : Word) :
    ∃ u : HostUpdate, ∀ s, writeReg s e off v = s.modifyEngine e u.apply := by
  unfold writeReg
  cases paramAt off with
  | some r => exact ⟨⟨(·.set r.place v), (·.set r.place true), id, id⟩, fun _ => rfl⟩
  | none =>
    by_cases hack : off = 0x08 ∧ v.getLsbD 0 = true
    · exact ⟨⟨id, id, fun _ => false, fun _ => 0⟩, fun s => if_pos hack⟩
    · exact ⟨.none, fun s => (if_neg hack).trans (s.modifyEngine_none e).symm⟩

/-! ## A local step reads and writes none of these fields -/

section
variable {u : HostUpdate} {pb e : Nat} {t : Tile} {i : Lane} {g g' : Engine}

theorem enterTile_hostUpdate (h : enterTile e t g = .ok g') : enterTile e t (u.apply g) = .ok (u.apply g') := by
  obtain ⟨a, ha, rfl⟩ := (enterTile_eq_ok ..).mp h
  exact (enterTile_eq_ok ..).mpr ⟨a, ha, rfl⟩

theorem nextTile_hostUpdate (h : nextTile e t g = .ok g') : nextTile e t (u.apply g) = .ok (u.apply g') := by
  refine (nextTile_eq_ok ..).mpr ?_
  obtain ⟨ht, rfl⟩ | ⟨t', ht, h⟩ := (nextTile_eq_ok ..).mp h
  · exact .inl ⟨ht, rfl⟩
  · exact .inr ⟨t', ht, enterTile_hostUpdate h⟩

theorem advanceIter_hostUpdate (h : advanceIter e t g = .ok g') :
    advanceIter e t (u.apply g) = .ok (u.apply g') := by
  refine (advanceIter_eq_ok ..).mpr ?_
  obtain ⟨cur, hcur, ⟨h0, h⟩ | ⟨h0, a, w, gu, gv, ha, hw, hu, hv, rfl⟩⟩ := (advanceIter_eq_ok ..).mp h
  · exact ⟨cur, hcur, .inl ⟨h0, nextTile_hostUpdate h⟩⟩
  · exact ⟨cur, hcur, .inr ⟨h0, a, w, gu, gv, ha, hw, hu, hv, rfl⟩⟩

theorem clearStep_hostUpdate (h : clearStep pb g = .ok g') : clearStep pb (u.apply g) = .ok (u.apply g') := by
  obtain ⟨fill, hfill, rfl⟩ := (clearStep_eq_ok ..).mp h
  exact (clearStep_eq_ok ..).mpr ⟨fill, hfill, rfl⟩

theorem coverStep_hostUpdate (h : coverStep e t g = .ok g') : coverStep e t (u.apply g) = .ok (u.apply g') := by
  refine (coverStep_eq_ok ..).mpr ?_
  obtain ⟨gu, gv, hu, hv, ⟨h0, h⟩ | ⟨h0, rfl⟩⟩ := (coverStep_eq_ok ..).mp h
  · exact ⟨gu, gv, hu, hv, .inl ⟨h0, nextTile_hostUpdate (u := u) h⟩⟩
  · exact ⟨gu, gv, hu, hv, .inr ⟨h0, rfl⟩⟩

theorem depthTest_hostUpdate (h : depthTest e t g = .ok g') : depthTest e t (u.apply g) = .ok (u.apply g') := by
  obtain ⟨a, w, gu, gv, mask, old, ha, hw, hu, hv, hm, ho, rfl⟩ := (depthTest_eq_ok ..).mp h
  exact (depthTest_eq_ok ..).mpr ⟨a, w, gu, gv, mask, old, ha, hw, hu, hv, hm, ho, rfl⟩

theorem depthStep_hostUpdate (h : depthStep e t g = .ok g') : depthStep e t (u.apply g) = .ok (u.apply g') := by
  obtain ⟨g1, m, hd, hm, h⟩ := (depthStep_eq_ok ..).mp h
  exact (depthStep_eq_ok ..).mpr ⟨u.apply g1, m, depthTest_hostUpdate hd, hm, advanceIter_hostUpdate (u := u) h⟩

theorem takeInterp_hostUpdate {attr : Attr} (h : takeInterp t i attr g = .ok g') :
    takeInterp t i attr (u.apply g) = .ok (u.apply g') := by
  obtain ⟨a, ha, rfl⟩ := (takeInterp_eq_ok ..).mp h
  exact (takeInterp_eq_ok ..).mpr ⟨a, ha, rfl⟩

theorem takeFrag_hostUpdate {p : Pixel} (h : takeFrag t i p g = .ok g') :
    takeFrag t i p (u.apply g) = .ok (u.apply g') := by
  obtain ⟨a, old, ha, ho, rfl⟩ := (takeFrag_eq_ok ..).mp h
  exact (takeFrag_eq_ok ..).mpr ⟨a, old, ha, ho, rfl⟩

theorem takeBlend_hostUpdate {p : Pixel} (h : takeBlend e t i p g = .ok g') :
    takeBlend e t i p (u.apply g) = .ok (u.apply g') :=
  advanceIter_hostUpdate (u := u) h

theorem issuePush_hostUpdate {k : Fin 1024} (h : issuePush e k g = .ok g') :
    issuePush e k (u.apply g) = .ok (u.apply g') := by
  obtain ⟨ox, oy, n, p, hargs, hp, rfl⟩ := (issuePush_eq_ok ..).mp h
  exact (issuePush_eq_ok ..).mpr ⟨ox, oy, n, p, hargs, hp, rfl⟩

theorem takeAck_hostUpdate (h : takeAck e g = .ok g') : takeAck e (u.apply g) = .ok (u.apply g') := by
  refine (takeAck_eq_ok ..).mpr ?_
  obtain ⟨k, hk, ⟨hlt, h⟩ | ⟨hlt, rfl⟩⟩ := (takeAck_eq_ok ..).mp h
  · exact ⟨k, hk, .inl ⟨hlt, issuePush_hostUpdate h⟩⟩
  · exact ⟨k, hk, .inr ⟨hlt, rfl⟩⟩

/-- A local step after the host's change answers the step's engine with the same change. -/
theorem localStep_hostUpdate (h : localStep pb e g = some (.ok g')) :
    localStep pb e (u.apply g) = some (.ok (u.apply g')) := by
  rcases localStep_cases h with ⟨hs, h⟩ | ⟨t, gu, gv, hs, ha, h⟩ | ⟨t, hs, h⟩ | ⟨t, hs, h⟩ | ⟨t, i, a, hs, ha, h⟩ |
    ⟨t, i, p, hs, ha, h⟩ | ⟨t, i, p, hs, ha, h⟩ | ⟨k, hs, ha, h⟩ <;>
    simp only [localStep, HostUpdate.apply_seq, HostUpdate.apply_port, hs]
  · rw [clearStep_hostUpdate h.symm]
  · obtain rfl := Except.ok.inj h
    rw [ha]; rfl
  · rw [coverStep_hostUpdate h.symm]
  · rw [depthStep_hostUpdate h.symm]
  · rw [ha, Option.map_some, takeInterp_hostUpdate h.symm]
  · rw [ha, Option.map_some, takeFrag_hostUpdate h.symm]
  · rw [ha, Option.map_some, takeBlend_hostUpdate h.symm]
  · rw [ha, Option.map_some, takeAck_hostUpdate h.symm]

end

/-! ## An engine's step in the system -/

/-- The change as engine `d` sees it when the host writes engine `e`. -/
def HostUpdate.seenBy (u : HostUpdate) (e d : Nat) : HostUpdate := if e = d then u else .none

theorem State.engine_hostUpdate (s : State) (u : HostUpdate) (e d : Nat) :
    (s.modifyEngine e u.apply).engine d = (s.engine d).map (u.seenBy e d).apply := by
  rw [State.engine_modifyEngine, HostUpdate.seenBy]
  split
  · rfl
  · cases s.engine d <;> rfl

/-- A change of engine `e` and one of engine `d` commute when they do on one engine. -/
theorem State.modifyEngine_comm (s : State) {e d : Nat} {f k k' : Engine → Engine}
    (hsame : e = d → k' ∘ f = f ∘ k) (hother : e ≠ d → k' = k) :
    (s.modifyEngine e f).modifyEngine d k' = (s.modifyEngine d k).modifyEngine e f := by
  simp only [State.modifyEngine]
  congr 1
  by_cases hed : e = d
  · subst hed
    rw [List.modify_modify_eq, List.modify_modify_eq, hsame rfl]
  · rw [hother hed, List.modify_modify_ne _ _ _ hed]

theorem State.setEngine_eq_modifyEngine (s : State) (d : Nat) (g : Engine) :
    s.setEngine d g = s.modifyEngine d fun _ => g := by
  rw [State.setEngine, List.set_eq_modify]; rfl

/-- Replacing an engine after the host's write is the host's write after replacing it. -/
theorem State.setEngine_hostUpdate (s : State) (u : HostUpdate) (e d : Nat) (g : Engine) :
    (s.modifyEngine e u.apply).setEngine d ((u.seenBy e d).apply g) = (s.setEngine d g).modifyEngine e u.apply := by
  rw [State.setEngine_eq_modifyEngine, State.setEngine_eq_modifyEngine]
  refine State.modifyEngine_comm s (fun hed => ?_) fun hed => ?_ <;> rw [HostUpdate.seenBy]
  · rw [if_pos hed]; rfl
  · rw [if_neg hed]; rfl

/-- A host write before an engine's own step is the host write after it. -/
theorem steppedTo_hostUpdate (s : State) (u : HostUpdate) (e d : Nat) (g : Engine) :
    steppedTo (s.modifyEngine e u.apply) d ((u.seenBy e d).apply g) = (steppedTo s d g).modifyEngine e u.apply := by
  rw [steppedTo_eq, steppedTo_eq, State.setEngine_hostUpdate, HostUpdate.apply_port]
  cases g.port <;> rfl

/-- A MAP step copies a color, so it too commutes with a change of the host's fields of any engine. -/
theorem mapStep_hostUpdate {s s1 : State} {d : Nat} {g : Engine} {t : Tile} {i : Lane} (u : HostUpdate) (e : Nat)
    (h : mapStep s d g t i = .next s1) :
    mapStep (s.modifyEngine e u.apply) d ((u.seenBy e d).apply g) t i = .next (s1.modifyEngine e u.apply) := by
  obtain ⟨m, src, a, p, hargs, ha, hp, hend⟩ := mapStep_eq_next.mp h
  refine mapStep_eq_next.mpr ⟨m, src, (u.seenBy e src).apply a, p, hargs, ?_, hp, ?_⟩
  · rw [State.engine_hostUpdate, ha]; rfl
  · obtain ⟨t', i', hnext, rfl⟩ | ⟨hlast, rfl⟩ := hend
    · exact .inl ⟨t', i', hnext, (State.setEngine_hostUpdate ..).symm⟩
    · refine .inr ⟨hlast, ?_⟩
      rw [State.modifyEngine_comm (f := Engine.unlock) (k := u.apply) (k' := u.apply) _ (fun _ => rfl) fun _ => rfl,
        ← State.setEngine_hostUpdate]
      rfl

/-- An engine's step commutes with every change of the host's fields. -/
theorem engineStep_hostUpdate {s s1 : State} {d : Nat} (u : HostUpdate) (e : Nat)
    (h : engineStep s d = some (.next s1)) :
    engineStep (s.modifyEngine e u.apply) d = some (.next (s1.modifyEngine e u.apply)) := by
  obtain ⟨g, hg, hstep⟩ := engineStep_eq_next h
  have hg' : (s.modifyEngine e u.apply).engine d = some ((u.seenBy e d).apply g) := by
    rw [State.engine_hostUpdate, hg]; rfl
  obtain ⟨g', hl, rfl⟩ | ⟨t, i, hseq, hmap⟩ := hstep
  · have hl' := localStep_hostUpdate (u := u.seenBy e d) hl
    rw [engineStep_local hg' (localStep_running hl').2, State.modifyEngine_cfg, hl', Option.map_some, commit_ok,
      steppedTo_hostUpdate]
  · rw [engineStep_map hg' hseq, mapStep_hostUpdate u e hmap]

/-- Settles O54: a register write is a change of the host's fields, which no engine step reads or writes. -/
theorem hostWritesCommute : Obligations.HostWritesCommute := by
  intro s s1 d e off v h
  obtain ⟨u, hu⟩ := writeReg_eq_hostUpdate e off v
  rw [hu, hu]
  exact engineStep_hostUpdate u e h

/-! ## A MAP's source (20_memory R76) -/

/-- Settles O60: the source is LOCKED, so it is idle, and only an engine's own move at a busy phase writes COLOR. -/
theorem mapSourceFrozen : Obligations.MapSourceFrozen := by
  intro s s' d src m t i a a' hinv hmap hstep ha ha' hno
  obtain ⟨-, -, g, a0, -, ha0, hlocked, -, -⟩ := hinv.source d src m t i hmap
  obtain rfl := Option.some.inj (ha0.symm.trans ha)
  have hidle : a0.seq = .idle := (hinv.lockedIdle src a0 ha hlocked).1
  refine ⟨hlocked, ?_⟩
  by_contra hne
  obtain ⟨on, rest, hin⟩ | ⟨-, hseq⟩ := (bufferWriters s s' src a0 a' hstep ha ha').2 hne
  · exact hno on rest hin
  · simp [hidle] at hseq

end Sys2Proof.Machine
end

section
/-! The decoder and the encoder are inverse to each other (30_encoding R80 to R86): what `decode` can answer is said
once, and the word of a command is taken apart into its fields once. -/
namespace Sys2Proof.Machine

/-! ## The fields of a word (30_encoding R80) -/

/-- A word is its four fields. -/
theorem fields_append (w : Word) : res1Field w ++ srcField w ++ res0Field w ++ opcField w = w := by
  unfold res1Field srcField res0Field opcField
  rw [BitVec.extractLsb'_append_extractLsb'_eq_extractLsb' (show 16 = 8 + 8 from rfl),
    BitVec.extractLsb'_append_extractLsb'_eq_extractLsb' (show 8 = 4 + 4 from rfl),
    BitVec.extractLsb'_append_extractLsb'_eq_extractLsb' (show 4 = 0 + 4 from rfl)]
  exact BitVec.extractLsb'_eq_self

/-- A word whose reserved fields are zero is in format C. -/
theorem formatC_fields {w : Word} (h1 : res1Field w = 0) (h0 : res0Field w = 0) :
    formatC (opcField w) (srcField w) = w := by
  have h := fields_append w
  rwa [h1, h0] at h

@[simp] theorem opcField_formatC (opc : BitVec 4) (src : BitVec 8) : opcField (formatC opc src) = opc :=
  BitVec.extractLsb'_append_eq_right

@[simp] theorem res0Field_formatC (opc : BitVec 4) (src : BitVec 8) : res0Field (formatC opc src) = 0 := by
  rw [res0Field, formatC, BitVec.extractLsb'_append_eq_of_le (by omega)]
  exact BitVec.extractLsb'_append_eq_right

@[simp] theorem srcField_formatC (opc : BitVec 4) (src : BitVec 8) : srcField (formatC opc src) = src := by
  rw [srcField, formatC, BitVec.extractLsb'_append_eq_of_le (by omega),
    BitVec.extractLsb'_append_eq_of_le (by omega)]
  exact BitVec.extractLsb'_append_eq_right

@[simp] theorem res1Field_formatC (opc : BitVec 4) (src : BitVec 8) : res1Field (formatC opc src) = 0 := by
  rw [res1Field, formatC, BitVec.extractLsb'_append_eq_of_le (by omega),
    BitVec.extractLsb'_append_eq_of_le (by omega), BitVec.extractLsb'_append_eq_of_le (by omega)]
  exact BitVec.extractLsb'_eq_self

/-! ## What the decoder answers (30_encoding R84) -/

/-- What `decode` answers for a word, with the ground of each answer in 30_encoding R84 and R86. -/
inductive DecodesTo (w : Word) : Except Illegal Instr → Prop where
  | reservedBits : res1Field w ≠ 0 ∨ res0Field w ≠ 0 → DecodesTo w (.error .reservedBits)
  | reservedOpcode : opcField w = 0 ∨ 5 ≤ (opcField w).toNat → DecodesTo w (.error .reservedOpcode)
  | srcNotZero : 1 ≤ (opcField w).toNat → (opcField w).toNat ≤ 3 → srcField w ≠ 0 →
      DecodesTo w (.error .srcNotZero)
  | command {i : Instr} : i.wellFormed = true → encode i = w → DecodesTo w (.ok i)

theorem opcField_eq {w : Word} {n : Nat} (h : (opcField w).toNat = n) : opcField w = BitVec.ofNat 4 n := by
  rw [← h, BitVec.ofNat_toNat, BitVec.setWidth_eq]

/-- A command without a source: SRC decides. -/
theorem noSrc_decodesTo {w : Word} {i : Instr} {n : Nat} (hwf : i.wellFormed = true)
    (henc : encode i = formatC (BitVec.ofNat 4 n) 0) (hopc : (opcField w).toNat = n) (hn : 1 ≤ n ∧ n ≤ 3)
    (hw : formatC (opcField w) (srcField w) = w) : DecodesTo w (noSrc w i) := by
  unfold noSrc
  split
  case isTrue hsrc => exact .command hwf (by rw [henc, ← opcField_eq hopc, ← hsrc, hw])
  case isFalse hsrc => exact .srcNotZero (by omega) (by omega) hsrc

/-- The one case analysis of `decode`; what follows goes through it. -/
theorem decode_decodesTo (w : Word) : DecodesTo w (decode w) := by
  unfold decode
  split
  case isTrue hres => exact .reservedBits hres
  case isFalse hres =>
    obtain ⟨h1, h0⟩ : res1Field w = 0 ∧ res0Field w = 0 := by simpa using hres
    have hw := formatC_fields h1 h0
    split
    case h_1 hopc => exact noSrc_decodesTo rfl rfl hopc (by decide) hw
    case h_2 hopc => exact noSrc_decodesTo rfl rfl hopc (by decide) hw
    case h_3 hopc => exact noSrc_decodesTo rfl rfl hopc (by decide) hw
    case h_4 hopc =>
      refine .command (decide_eq_true (srcField w).isLt) ?_
      rw [encode, BitVec.ofNat_toNat, BitVec.setWidth_eq, show (4 : BitVec 4) = .ofNat 4 4 from rfl,
        ← opcField_eq hopc, hw]
    case h_5 hne1 hne2 hne3 hne4 =>
      refine .reservedOpcode ?_
      have hne : (opcField w).toNat ≠ 1 ∧ (opcField w).toNat ≠ 2 ∧ (opcField w).toNat ≠ 3 ∧ (opcField w).toNat ≠ 4 :=
        ⟨hne1, hne2, hne3, hne4⟩
      rw [BitVec.toNat_eq, show (0 : BitVec 4).toNat = 0 from rfl]
      omega

/-- A word decodes to a command exactly when it is the word of that command, well formed. -/
theorem decode_eq_ok_iff {w : Word} {i : Instr} : decode w = .ok i ↔ i.wellFormed = true ∧ encode i = w := by
  constructor
  · intro h
    have hd := decode_decodesTo w
    rw [h] at hd
    cases hd with
    | command hwf henc => exact ⟨hwf, henc⟩
  · rintro ⟨hwf, rfl⟩
    cases i with
    | clear | raster | write => rfl
    | map src =>
      have hsrc : src < 256 := of_decide_eq_true hwf
      simp [decode, encode, Nat.mod_eq_of_lt hsrc]

/-! ## The bytes of a word (20_memory R65) -/

/-- The bytes of a word, put together again. -/
theorem wordOfBytes_byteOfWord (w : Word) :
    wordOfBytes (byteOfWord w 0) (byteOfWord w 1) (byteOfWord w 2) (byteOfWord w 3) = w := by
  unfold wordOfBytes byteOfWord
  rw [BitVec.extractLsb'_append_extractLsb'_eq_extractLsb' (show 8 * 3 = 8 * 2 + 8 from rfl),
    BitVec.extractLsb'_append_extractLsb'_eq_extractLsb' (show 8 * 2 = 8 * 1 + 8 from rfl),
    BitVec.extractLsb'_append_extractLsb'_eq_extractLsb' (show 8 * 1 = 8 * 0 + 8 from rfl)]
  exact BitVec.extractLsb'_eq_self

/-- Decoding the bytes of a word decodes the word and leaves the bytes after them. -/
theorem decodeBytes_bytesOfWord (w : Word) (rest : List Byte) :
    decodeBytes (bytesOfWord w ++ rest) = (decode w).map (·, rest) := by
  change (decode (wordOfBytes _ _ _ _)).map (·, rest) = _
  rw [wordOfBytes_byteOfWord]

/-- Settles O1: as a word by `decode_eq_ok_iff`, and as bytes since four bytes make the word again. -/
theorem decodeOfEncode : Obligations.DecodeOfEncode := by
  intro i rest hwf
  have hword : decode (encode i) = .ok i := decode_eq_ok_iff.mpr ⟨hwf, rfl⟩
  exact ⟨hword, by rw [encodeBytes, decodeBytes_bytesOfWord, hword]; rfl⟩

/-- Settles O2: what decodes is the word of a command. -/
theorem encodeOfDecode : Obligations.EncodeOfDecode := fun _ _ => decode_eq_ok_iff.mp

/-! ## The mask and match table (30_encoding R85) -/

/-- A full mask selects one word. -/
theorem decode_eq_ok_iff_fullMask {i : Instr} (hwf : i.wellFormed = true) (w : Word) :
    decode w = .ok i ↔ w &&& 0xFFFFFFFF = encode i := by
  rw [show w &&& 0xFFFFFFFF = w from BitVec.and_allOnes, decode_eq_ok_iff, eq_comm (a := w)]
  exact and_iff_right hwf

/-- MAP's mask leaves SRC free and fixes the other three fields. -/
theorem fields_of_mapMask {w : Word} (h : w &&& 0xFFFF00FF = 0x00000004) :
    res1Field w = 0 ∧ res0Field w = 0 ∧ opcField w = 4 := by
  have hres1 : res1Field (w &&& 0xFFFF00FF) = res1Field w &&& BitVec.allOnes 16 := BitVec.extractLsb'_and
  have hres0 : res0Field (w &&& 0xFFFF00FF) = res0Field w &&& BitVec.allOnes 4 := BitVec.extractLsb'_and
  have hopc : opcField (w &&& 0xFFFF00FF) = opcField w &&& BitVec.allOnes 4 := BitVec.extractLsb'_and
  rw [h, BitVec.and_allOnes] at hres1 hres0 hopc
  exact ⟨hres1.symm, hres0.symm, hopc.symm⟩

/-- The word of every command is in its own row. -/
theorem encode_in_row : ∀ i : Instr, Laws.MaskMatch.Statement i
  | .clear => Laws.MaskMatch.clear
  | .raster => Laws.MaskMatch.raster
  | .write => Laws.MaskMatch.write
  | .map src => Laws.MaskMatch.map src

/-- MAP's row holds of the words of MAP. -/
theorem decode_eq_map_iff_mask (w : Word) :
    (∃ src, decode w = .ok (.map src)) ↔ w &&& 0xFFFF00FF = 0x00000004 := by
  constructor
  · rintro ⟨src, h⟩
    obtain ⟨hwf, rfl⟩ := decode_eq_ok_iff.mp h
    exact (encode_in_row (.map src) hwf).1
  · intro h
    obtain ⟨hres1, hres0, hopc⟩ := fields_of_mapMask h
    refine ⟨(srcField w).toNat, decode_eq_ok_iff.mpr ⟨decide_eq_true (srcField w).isLt, ?_⟩⟩
    rw [encode, BitVec.ofNat_toNat, BitVec.setWidth_eq, ← hopc, formatC_fields hres1 hres0]

/-- A row holds of a word exactly when the word decodes to a command of that row. -/
theorem row_holds_iff (w : Word) (i : Instr) :
    w &&& (maskMatch i).1 = (maskMatch i).2 ↔ ∃ j, decode w = .ok j ∧ maskMatch j = maskMatch i := by
  constructor
  · intro h
    cases i with
    | clear => exact ⟨.clear, (decode_eq_ok_iff_fullMask rfl w).mpr h, rfl⟩
    | raster => exact ⟨.raster, (decode_eq_ok_iff_fullMask rfl w).mpr h, rfl⟩
    | write => exact ⟨.write, (decode_eq_ok_iff_fullMask rfl w).mpr h, rfl⟩
    | map =>
      obtain ⟨src, hsrc⟩ := (decode_eq_map_iff_mask w).mpr h
      exact ⟨.map src, hsrc, rfl⟩
  · rintro ⟨j, hj, hrow⟩
    obtain ⟨hwf, rfl⟩ := decode_eq_ok_iff.mp hj
    rw [← hrow]
    exact (encode_in_row j hwf).1

/-- One command of each row; the rows of 30_encoding R85 are theirs. -/
def rowCommands : List Instr := [.clear, .raster, .write, .map 0]

theorem maskMatch_mem_rows (i : Instr) : maskMatch i ∈ rowCommands.map maskMatch := by
  cases i <;> simp [rowCommands, maskMatch]

/-- A command is in one row only. -/
theorem countP_same_row (j : Instr) : rowCommands.countP (fun i => decide (maskMatch j = maskMatch i)) = 1 := by
  cases j <;> rfl

/-- At most one row holds: a row that holds is that of the command the word decodes to. -/
theorem countP_rows_le_one (w : Word) :
    (rowCommands.map maskMatch).countP (fun row => decide (w &&& row.1 = row.2)) ≤ 1 := by
  rw [List.countP_map]
  cases hd : decode w with
  | error r =>
    have hno : ∀ i : Instr, w &&& (maskMatch i).1 ≠ (maskMatch i).2 := fun i => by simp [row_holds_iff, hd]
    exact (List.countP_eq_zero.mpr fun i _ => by simpa using hno i).le.trans zero_le_one
  | ok j =>
    have hrow : ∀ i : Instr, w &&& (maskMatch i).1 = (maskMatch i).2 ↔ maskMatch j = maskMatch i := fun i => by
      simp [row_holds_iff, hd]
    exact ((List.countP_congr fun i _ => by simpa using hrow i).trans (countP_same_row j)).le

/-- Settles O3: each row holds exactly of the words that decode to its command, so at most one holds, and one does of
every word that decodes. -/
theorem maskMatchTable : Obligations.MaskMatchTable := by
  intro w
  refine ⟨decode_eq_ok_iff_fullMask rfl w, decode_eq_ok_iff_fullMask rfl w, decode_eq_ok_iff_fullMask rfl w,
    decode_eq_map_iff_mask w, countP_rows_le_one w, fun hno => ?_⟩
  cases hd : decode w with
  | error r => exact ⟨r, rfl⟩
  | ok i => exact absurd ((row_holds_iff w i).mpr ⟨i, hd, rfl⟩) (hno _ (maskMatch_mem_rows i))

/-! ## The illegal words (30_encoding R86) -/

/-- The words that 30_encoding R86 lists, by their fields. -/
def illegalWord (w : Word) : Prop :=
  opcField w = 0 ∨ 5 ≤ (opcField w).toNat ∨ res0Field w ≠ 0 ∨ res1Field w ≠ 0 ∨
    (1 ≤ (opcField w).toNat ∧ (opcField w).toNat ≤ 3 ∧ srcField w ≠ 0)

/-- No command's word is among the illegal ones. -/
theorem not_illegalWord_encode (i : Instr) : ¬ illegalWord (encode i) := by
  cases i <;> simp [illegalWord, encode]

theorem decode_eq_error_iff (w : Word) : (∃ r, decode w = .error r) ↔ illegalWord w := by
  have hd := decode_decodesTo w
  generalize decode w = answer at hd
  cases hd with
  | reservedBits h => exact iff_of_true ⟨_, rfl⟩ (h.elim (.inr <| .inr <| .inr <| .inl ·) (.inr <| .inr <| .inl ·))
  | reservedOpcode h => exact iff_of_true ⟨_, rfl⟩ (h.elim .inl (.inr <| .inl ·))
  | srcNotZero hlo hhi hsrc =>
    exact iff_of_true ⟨_, rfl⟩ (.inr <| .inr <| .inr <| .inr ⟨hlo, hhi, hsrc⟩)
  | @command i hwf henc =>
    subst henc
    exact iff_of_false (by simp) (not_illegalWord_encode i)

/-- An idle engine without a fault drops an illegal word with E_ILLEGAL (60_exceptions R276). -/
theorem presentIllegal_idle {s : State} {g : Engine} (hg : s.engine s.target = some g) (hf : g.fault = false)
    (hb : g.busy = false) (hl : g.locked = false) : presentIllegal s = .next (s.raise s.target g .illegal) := by
  have hfirst : firstFailing [(g.occupied, .busy), (true, .illegal)] = some .illegal :=
    firstFailing_append [(g.occupied, .busy)] [] .illegal (by simp [Engine.occupied, hb, hl])
  simp [presentIllegal, presentTo, hg, hf, hfirst]

/-- A word that does not decode is presented as illegal. -/
theorem presentWord_error {w : Word} {r : Illegal} (h : decode w = .error r) (s : State) (e : Nat) :
    presentWord s e w = presentIllegal { s with target := e } := by
  rw [presentWord, h]

/-- Settles O4. -/
theorem illegalWords : Obligations.IllegalWords := by
  refine fun w => ⟨decode_eq_error_iff w, ?_⟩
  rintro ⟨r, hr⟩ s e g hg hf hb hl
  rw [presentWord_error hr]
  exact presentIllegal_idle (s := { s with target := e }) hg hf hb hl

/-- Settles O5: each example word is the encoding of its command, and each illegal one has its ground in R86. -/
theorem exampleWords : Obligations.ExampleWords := by
  refine ⟨decode_eq_ok_iff.mpr ⟨rfl, rfl⟩, decode_eq_ok_iff.mpr ⟨rfl, rfl⟩, decode_eq_ok_iff.mpr ⟨rfl, rfl⟩,
    decode_eq_ok_iff.mpr ⟨rfl, rfl⟩, decode_eq_ok_iff.mpr ⟨rfl, rfl⟩, decode_eq_ok_iff.mpr ⟨rfl, rfl⟩, ?_⟩
  simp only [List.forall_mem_cons]
  exact ⟨⟨.reservedOpcode, rfl⟩, ⟨.reservedOpcode, rfl⟩, ⟨.reservedBits, rfl⟩, ⟨.srcNotZero, rfl⟩,
    ⟨.reservedBits, rfl⟩, by simp⟩

end Sys2Proof.Machine
end

section
/-! The three binary32 operations (40_lane_primitives R100, R101): the finite result is the nearest binary32, and what
infinities and NaNs give. -/
namespace Sys2Proof.Machine

/-! ## The fields of a value -/

theorem f32Sign_eq_decide (a : Binary32) : f32Sign a = decide (a.toNat / 2 ^ 31 % 2 = 1) :=
  Nat.testBit_eq_decide_div_mod_eq

/-- A value is its three fields. -/
theorem f32Pack_fields (a : Binary32) : f32Pack (f32Sign a) (f32Exp a * 2 ^ 23 + f32Frac a) = a := by
  have hmag : f32Exp a * 2 ^ 23 + f32Frac a = a.toNat % 2 ^ 31 := by
    rw [f32Exp, f32Frac, BitVec.extractLsb'_toNat, BitVec.extractLsb'_toNat, Nat.shiftRight_eq_div_pow]
    omega
  have ha := a.isLt
  refine BitVec.eq_of_toNat_eq ?_
  rw [hmag, f32Pack_toNat (Nat.mod_lt _ (by omega)), f32Sign_eq_decide]
  simp only [decide_eq_true_eq]
  split <;> omega

theorem f32IsInf_fields {a : Binary32} (h : f32IsInf a = true) : f32Exp a = 255 ∧ f32Frac a = 0 := by
  simpa [f32IsInf] using h

/-- There is one infinity of each sign. -/
theorem f32IsInf_eq_pack {a : Binary32} (h : f32IsInf a = true) : a = f32Pack (f32Sign a) 0x7F800000 := by
  obtain ⟨hexp, hfrac⟩ := f32IsInf_fields h
  have hfields := f32Pack_fields a
  rw [hexp, hfrac] at hfields
  exact hfields.symm

/-- There is one zero of each sign. -/
theorem eq_f32SignedZero_of_mag {a : Binary32} (h : f32Mag a = 0) : a = f32SignedZero (f32Sign a) := by
  have hfields := f32Pack_fields a
  unfold f32Mag at h
  split at h
  · rename_i hexp
    rw [hexp, h] at hfields
    exact hfields.symm
  · rw [Nat.shiftLeft_eq] at h
    exact absurd h (Nat.mul_pos (by omega) (Nat.two_pow_pos _)).ne'

theorem f32Units_eq_zero_iff (a : Binary32) : f32Units a = 0 ↔ f32Mag a = 0 := by
  rw [← f32Units_natAbs, Int.natAbs_eq_zero]

theorem f32Units_eq_signOf (a : Binary32) : f32Units a = signOf (f32Sign a) * f32Mag a := by
  unfold f32Units signOf
  split <;> simp

/-- A value is a NaN, or an infinity, or finite. -/
theorem f32_classes (a : Binary32) : f32IsNaN a = true ∨ f32IsInf a = true ∨ f32IsFinite a = true := by
  simp only [f32IsNaN, f32IsInf, f32IsFinite, Bool.and_eq_true, beq_iff_eq, bne_iff_ne]
  omega

/-- An infinity is no NaN and not finite. -/
theorem f32IsInf_class {a : Binary32} (h : f32IsInf a = true) : f32IsNaN a = false ∧ f32IsFinite a = false := by
  obtain ⟨hexp, hfrac⟩ := f32IsInf_fields h
  simp [f32IsNaN, f32IsFinite, hexp, hfrac]

/-! ## The negated value -/

@[simp] theorem f32Exp_neg (a : Binary32) : f32Exp (f32Neg a) = f32Exp a := by
  rw [f32Exp, f32Neg, BitVec.extractLsb'_xor, show (0x80000000 : Binary32).extractLsb' 23 8 = 0#8 by decide,
    BitVec.xor_zero, f32Exp]

@[simp] theorem f32Frac_neg (a : Binary32) : f32Frac (f32Neg a) = f32Frac a := by
  rw [f32Frac, f32Neg, BitVec.extractLsb'_xor, show (0x80000000 : Binary32).extractLsb' 0 23 = 0#23 by decide,
    BitVec.xor_zero, f32Frac]

@[simp] theorem f32Sign_neg (a : Binary32) : f32Sign (f32Neg a) = !f32Sign a := by
  simp [f32Sign, f32Neg]

@[simp] theorem f32IsNaN_neg (a : Binary32) : f32IsNaN (f32Neg a) = f32IsNaN a := by simp [f32IsNaN]

@[simp] theorem f32IsInf_neg (a : Binary32) : f32IsInf (f32Neg a) = f32IsInf a := by simp [f32IsInf]

@[simp] theorem f32IsFinite_neg (a : Binary32) : f32IsFinite (f32Neg a) = f32IsFinite a := by simp [f32IsFinite]

@[simp] theorem f32Units_neg (a : Binary32) : f32Units (f32Neg a) = -f32Units a := by
  have hmag : f32Mag (f32Neg a) = f32Mag a := by simp [f32Mag]
  rw [f32Units, f32Units, hmag, f32Sign_neg]
  cases f32Sign a <;> simp

/-- Only +0.0 is negated to -0.0. -/
theorem f32Neg_eq_negZero_iff (a : Binary32) : f32Neg a = 0x80000000 ↔ a = 0x00000000 := by
  constructor
  · intro h
    have hflip := congrArg (· ^^^ (0x80000000 : Binary32)) h
    simpa [f32Neg, BitVec.xor_assoc] using hflip
  · rintro rfl
    rfl

/-! ## Finite results are the nearest ones -/

/-- Rounding an exact number of units of 2^(-149 - g) keeps 24 bits of it. -/
theorem rounded_roundMag (m g : Nat) :
    ∃ k R, roundMag m g = min (k * 2 ^ 23 + R) 0x7F800000 ∧ Rounded m (2 ^ g) k R := by
  obtain ⟨k, hmag, hbelow, hnormal⟩ := roundMag_spec m g
  obtain ⟨hlow, hhigh, htie⟩ := roundShift_spec m (k + g)
  refine ⟨k, roundShift m (k + g), hmag, ?_⟩
  rw [Nat.pow_add] at *
  exact ⟨hlow, hhigh, htie, hbelow, hnormal⟩

theorem roundMag_nearestTo (neg : Bool) (m g : Nat) :
    nearestTo (signOf neg * m) (2 ^ g) (f32Pack neg (roundMag m g)) := by
  obtain ⟨k, R, hmag, hr⟩ := rounded_roundMag m g
  rw [hmag]
  exact hr.nearestTo_pack (Nat.two_pow_pos g) neg

theorem roundMag_lt (m g : Nat) : roundMag m g < 2 ^ 31 := by
  obtain ⟨k, R, hmag, -⟩ := rounded_roundMag m g
  omega

theorem roundMag_zero (g : Nat) : roundMag 0 g = 0 := by
  simp [roundMag, roundShift]

theorem signOf_mul_natAbs (s : Int) : signOf (decide (s < 0)) * s.natAbs = s := by
  by_cases h : s < 0
  · simp only [signOf, h, decide_true, if_true]
    omega
  · simp only [signOf, h, decide_false, Bool.false_eq_true, if_false]
    omega

/-- The sum of finite values is the nearest one; an exactly zero sum has the sign that the operands share, if any. -/
theorem addFinite_nearestTo (a b : Binary32) : nearestTo (f32Units a + f32Units b) 1 (addFinite a b) := by
  simp only [addFinite]
  split
  · rename_i hzero
    have h := roundMag_nearestTo (f32Sign a && f32Sign b) 0 0
    rw [roundMag_zero] at h
    simpa [hzero, f32SignedZero] using h
  · have h := roundMag_nearestTo (decide (f32Units a + f32Units b < 0)) (f32Units a + f32Units b).natAbs 0
    rwa [signOf_mul_natAbs] at h

/-- An exactly zero sum is -0.0 for -0.0 + -0.0 and +0.0 otherwise. -/
theorem addFinite_eq_zero {a b : Binary32} (h : f32Units a + f32Units b = 0) :
    addFinite a b = if a = 0x80000000 ∧ b = 0x80000000 then 0x80000000 else 0x00000000 := by
  rw [addFinite, if_pos h]
  by_cases hneg : f32Sign a = true ∧ f32Sign b = true
  · obtain ⟨hsa, hsb⟩ := hneg
    have hmags : f32Mag a = 0 ∧ f32Mag b = 0 := by
      simp only [f32Units, hsa, hsb, if_true] at h
      omega
    have ha := eq_f32SignedZero_of_mag hmags.1
    have hb := eq_f32SignedZero_of_mag hmags.2
    rw [hsa] at ha
    rw [hsb] at hb
    rw [ha, hb]
    decide
  · have hno : ¬(a = 0x80000000 ∧ b = 0x80000000) := by
      rintro ⟨rfl, rfl⟩
      exact hneg (by decide)
    have hsign : (f32Sign a && f32Sign b) = false := by simpa using hneg
    rw [if_neg hno, hsign]
    rfl

/-- The product of finite values is rounded from the exact product of their magnitudes, whether that is zero or not. -/
theorem mulFinite_eq_pack (a b : Binary32) :
    mulFinite a b = f32Pack (f32Sign a != f32Sign b) (roundMag (f32Mag a * f32Mag b) 149) := by
  simp only [mulFinite]
  split
  · rename_i hzero
    rw [hzero, roundMag_zero, f32SignedZero]
  · rfl

theorem mulFinite_nearestTo (a b : Binary32) : nearestTo (f32Units a * f32Units b) (2 ^ 149) (mulFinite a b) := by
  have hexact : f32Units a * f32Units b = signOf (f32Sign a != f32Sign b) * (f32Mag a * f32Mag b : Nat) := by
    rw [f32Units_eq_signOf, f32Units_eq_signOf]
    cases f32Sign a <;> cases f32Sign b <;> simp [signOf]
  rw [hexact, mulFinite_eq_pack]
  exact roundMag_nearestTo _ _ _

/-! ## Infinities and NaNs -/

section
variable {nan a b : Binary32}

/-- An infinity plus a finite value or an infinity of the same sign is that infinity. -/
theorem addWith_inf_left (ha : f32IsInf a = true)
    (hb : f32IsFinite b = true ∨ (f32IsInf b = true ∧ f32Sign b = f32Sign a)) : addWith nan a b = a := by
  obtain hb | ⟨hb, hs⟩ := hb
  · simp [addWith, ha, f32IsInf_class ha, f32IsFinite_class b hb]
  · simp [addWith, ha, f32IsInf_class ha, f32IsInf_class hb, hs]

theorem addWith_inf_right (ha : f32IsFinite a = true) (hb : f32IsInf b = true) : addWith nan a b = b := by
  simp [addWith, hb, f32IsInf_class hb, f32IsFinite_class a ha]

/-- A sum is a NaN for a NaN operand and for infinities of opposite signs only, if the pattern drawn for it is one. -/
theorem addWith_isNaN_iff (hnan : f32IsNaN nan = true) :
    f32IsNaN (addWith nan a b) = true ↔ f32IsNaN a = true ∨ f32IsNaN b = true ∨
      (f32IsInf a = true ∧ f32IsInf b = true ∧ f32Sign a ≠ f32Sign b) := by
  obtain ha | ha | ha := f32_classes a
  · simp [addWith, ha, hnan]
  · obtain hb | hb | hb := f32_classes b
    · simp [addWith, hb, hnan]
    · by_cases hs : f32Sign a = f32Sign b
      · simp [addWith_inf_left ha (.inr ⟨hb, hs.symm⟩), f32IsInf_class ha, f32IsInf_class hb, hs]
      · simp [addWith, f32IsInf_class ha, f32IsInf_class hb, ha, hb, hs, hnan]
    · simp [addWith_inf_left ha (.inl hb), f32IsInf_class ha, f32IsFinite_class b hb]
  · obtain hb | hb | hb := f32_classes b
    · simp [addWith, hb, hnan]
    · simp [addWith_inf_right ha hb, f32IsFinite_class a ha, f32IsInf_class hb]
    · simp [addWith_finite nan a b ha hb, (addFinite_nearestTo a b).1, f32IsFinite_class a ha, f32IsFinite_class b hb]

end

/-- A drawn pattern is a NaN, whatever is drawn. -/
theorem nanDraw_isNaN (n : DrawId) (op : FpOp) (a b : Binary32) : f32IsNaN (nanDraw n op a b) = true := by
  simp only [nanDraw]
  generalize hq : (if (Config.nanBits n op a b).extractLsb' 0 23 = 0 then (0x400000 : BitVec 23)
    else (Config.nanBits n op a b).extractLsb' 0 23) = frac
  have hne : frac ≠ 0 := by
    rw [← hq]
    split
    · decide
    · assumption
  have hexp (s : BitVec 1) : f32Exp (s ++ (0xFF : BitVec 8) ++ frac) = 255 := by
    rw [f32Exp, BitVec.extractLsb'_append_eq_of_le (by omega), BitVec.extractLsb'_append_eq_right]
    rfl
  have hfrac (s : BitVec 1) : f32Frac (s ++ (0xFF : BitVec 8) ++ frac) ≠ 0 := by
    rw [f32Frac, BitVec.extractLsb'_append_eq_right]
    exact fun h => hne (BitVec.eq_of_toNat_eq h)
  simp only [f32IsNaN, Bool.and_eq_true, beq_iff_eq, bne_iff_ne]
  exact ⟨hexp _, hfrac _⟩

/-- A product is a NaN for a NaN operand and for a zero times an infinity only. -/
theorem fmul_isNaN_iff (n : DrawId) (a b : Binary32) :
    f32IsNaN (fmul n a b) = true ↔ f32IsNaN a = true ∨ f32IsNaN b = true ∨
      (f32IsInf a = true ∧ f32IsFinite b = true ∧ f32Units b = 0) ∨
      (f32IsInf b = true ∧ f32IsFinite a = true ∧ f32Units a = 0) := by
  have hdraw := nanDraw_isNaN n .mul a b
  have hpack (neg : Bool) : f32IsNaN (f32Pack neg 0x7F800000) = false := by cases neg <;> decide
  simp only [f32Units_eq_zero_iff]
  obtain ha | ha | ha := f32_classes a
  · simp [fmul, ha, hdraw]
  · obtain hb | hb | hb := f32_classes b
    · simp [fmul, hb, hdraw]
    · simp [fmul, ha, hb, f32IsInf_class ha, f32IsInf_class hb, hpack]
    · by_cases hz : f32Mag b = 0 <;>
        simp [fmul, ha, hb, f32IsInf_class ha, f32IsFinite_class b hb, hz, hdraw, hpack]
  · obtain hb | hb | hb := f32_classes b
    · simp [fmul, hb, hdraw]
    · by_cases hz : f32Mag a = 0 <;>
        simp [fmul, ha, hb, f32IsInf_class hb, f32IsFinite_class a ha, hz, hdraw, hpack]
    · simp [fmul_finite n a b ha hb, (mulFinite_nearestTo a b).1, f32IsFinite_class a ha, f32IsFinite_class b hb]

/-! ## The statements -/

/-- Settles O40: a difference is the sum with the subtrahend negated. -/
theorem addRoundsToNearest : Obligations.AddRoundsToNearest := by
  intro n a b
  refine ⟨fun ha hb => ?_, addWith_inf_left, addWith_inf_right, fun ha hb => addWith_inf_left ha (hb.imp ?_ ?_),
    fun ha hb => ?_⟩
  · have hnb : f32IsFinite (f32Neg b) = true := by rwa [f32IsFinite_neg]
    rw [fadd_finite n a b ha hb, fsub_finite n a b ha hnb]
    have hdiff : f32Units a - f32Units b = f32Units a + f32Units (f32Neg b) := by rw [f32Units_neg]; rfl
    rw [hdiff]
    refine ⟨addFinite_nearestTo a b, addFinite_nearestTo a (f32Neg b), addFinite_eq_zero, fun hz => ?_⟩
    simp only [addFinite_eq_zero hz, f32Neg_eq_negZero_iff]
  · exact (f32IsFinite_neg b).trans
  · rintro ⟨hinf, hs⟩
    exact ⟨(f32IsInf_neg b).trans hinf, by rw [f32Sign_neg]; exact Bool.not_eq.mpr hs⟩
  · have hnb : f32IsInf (f32Neg b) = true := by rwa [f32IsInf_neg]
    rw [fsub, addWith_inf_right ha hnb, f32IsInf_eq_pack hnb, f32Sign_neg]
    cases f32Sign b <;> rfl

/-- Settles O41. -/
theorem mulRoundsToNearest : Obligations.MulRoundsToNearest := by
  intro n a b
  refine ⟨fun ha hb => ?_, fun ha hb hinf ha0 hb0 => ?_⟩
  · rw [fmul_finite n a b ha hb]
    refine ⟨mulFinite_nearestTo a b, ?_⟩
    rw [mulFinite_eq_pack, f32Sign_pack (roundMag_lt _ _)]
  · have hzero : ((f32IsFinite a && f32Mag a == 0) || (f32IsFinite b && f32Mag b == 0)) = false := by
      simpa [f32Units_eq_zero_iff] using And.intro ha0 hb0
    have hpack : fmul n a b = f32Pack (f32Sign a != f32Sign b) 0x7F800000 := by
      simp [fmul, ha, hb, hinf, hzero]
    rw [hpack]
    cases f32Sign a <;> cases f32Sign b <;> rfl

/-- Settles O42. -/
theorem nanResults : Obligations.NanResults := by
  refine fun n a b => ⟨addWith_isNaN_iff (nanDraw_isNaN n .add a b), ?_, fmul_isNaN_iff n a b⟩
  have h := addWith_isNaN_iff (a := a) (b := f32Neg b) (nanDraw_isNaN n .sub a b)
  simpa [fsub] using h

end Sys2Proof.Machine
end

section
/-! The lane operations lane by lane, and where the lanes of the tiles stand in the 32×32 block
(40_lane_primitives R103 to R116). -/
namespace Sys2Proof.Machine

/-- Settles O45: a grid made from its lanes has those lanes. -/
theorem laneOperations : Obligations.LaneOperations := by
  intro a b c m n i
  exact ⟨signmask_getLsbD a i, gridOf_getElem _ i, gridOf_getElem _ i, gridOf_getElem _ i, gridOf_getElem _ i,
    select_getElem m a b i⟩

/-- A tile's column in the block, from the bits of its number (40_lane_primitives R113 to R115). -/
theorem tileX_eq (t : Tile) : tileX t = 16 * (t.val / 4 % 2) + 8 * (t.val % 2) := by
  simp only [tileX, quadSize, tileSize, childX, outerChild, innerChild]
  omega

theorem tileY_eq (t : Tile) : tileY t = 16 * (t.val / 8) + 8 * (t.val / 2 % 2) := by
  simp only [tileY, quadSize, tileSize, childY, outerChild, innerChild]
  omega

theorem blockX_eq (t : Tile) (i : Lane) : blockX t i = tileX t + i.val % 8 := rfl

theorem blockY_eq (t : Tile) (i : Lane) : blockY t i = tileY t + i.val / 8 := rfl

theorem blockX_lt (t : Tile) (i : Lane) : blockX t i < 32 := by
  rw [blockX_eq, tileX_eq]
  omega

theorem blockY_lt (t : Tile) (i : Lane) : blockY t i < 32 := by
  rw [blockY_eq, tileY_eq]
  omega

/-- The tile and the lane of a lane's own pixel. -/
theorem tileAt_block (t : Tile) (i : Lane) : tileAt ⟨blockX t i, blockX_lt t i⟩ ⟨blockY t i, blockY_lt t i⟩ = t := by
  have houterX : blockX t i / 16 = t.val / 4 % 2 := by rw [blockX_eq, tileX_eq]; omega
  have houterY : blockY t i / 16 = t.val / 8 := by rw [blockY_eq, tileY_eq]; omega
  have hinnerX : blockX t i / 8 % 2 = t.val % 2 := by rw [blockX_eq, tileX_eq]; omega
  have hinnerY : blockY t i / 8 % 2 = t.val / 2 % 2 := by rw [blockY_eq, tileY_eq]; omega
  ext
  simp only [tileAt, houterX, houterY, hinnerX, hinnerY]
  omega

theorem laneAt_block (t : Tile) (i : Lane) : laneAt ⟨blockX t i, blockX_lt t i⟩ ⟨blockY t i, blockY_lt t i⟩ = i := by
  ext
  simp only [laneAt, blockX_eq, blockY_eq, tileX_eq, tileY_eq]
  omega

/-- A pixel is the one of the lane that stands on it. -/
theorem blockX_at (x y : Fin 32) : blockX (tileAt x y) (laneAt x y) = x.val := by
  simp only [blockX_eq, tileX_eq, tileAt, laneAt]
  omega

theorem blockY_at (x y : Fin 32) : blockY (tileAt x y) (laneAt x y) = y.val := by
  simp only [blockY_eq, tileY_eq, tileAt, laneAt]
  omega

/-- The constructor's accessors give back its column and row (40_lane_primitives R111). -/
theorem laneIndex_laws (column row : Fin 8) : (laneIndex column row).val = column.val * 8 + row.val ∧
    lo3 (laneIndex column row) = row ∧ hi3 (laneIndex column row) = column := by
  simp only [laneIndex, lo3, hi3, Fin.ext_iff]
  omega

/-- Settles O46. -/
theorem laneGeometry : Obligations.LaneGeometry := by
  refine ⟨laneIndex_laws, fun i => ?_, fun t i => ?_, fun x y => ⟨blockX_at x y, blockY_at x y, rfl, rfl⟩⟩
  · simp only [hi3, lo3]
    omega
  · exact ⟨⟨_, blockX_lt t i⟩, ⟨_, blockY_lt t i⟩, rfl, rfl, tileAt_block t i, laneAt_block t i, rfl, rfl⟩

end Sys2Proof.Machine
end

section
/-! COVER and DEPTHTEST lane by lane, and their sign tests as comparisons (41_tilemask R131 to R143). -/
namespace Sys2Proof.Machine

/-! ## COVER's weights and mask (R131, R132) -/

theorem coverW_getElem (n : DrawId) (u v : Grid) (i : Lane) :
    (coverW n u v)[i] = fsub (n.plus (2 * i.val + 1)) (fsub (n.plus (2 * i.val)) f32One u[i]) v[i] := by
  simp only [coverW, lanesub, broadcast, gridOf_getElem]

/-- A finite value taken from any number draws no NaN pattern (40_lane_primitives R101). -/
theorem fsub_draw_irrelevant {a b : Binary32} (ha : f32IsNaN a = false) (hb : f32IsFinite b = true) (n n' : DrawId) :
    fsub n' a b = fsub n a b := by
  have hnb : f32IsFinite (f32Neg b) = true := by rwa [f32IsFinite_neg]
  obtain h | h | h := f32_classes a
  · simp [ha] at h
  · rw [fsub, fsub, addWith_inf_left h (.inl hnb), addWith_inf_left h (.inl hnb)]
  · rw [fsub_finite n' a b h hnb, fsub_finite n a b h hnb]

/-- The difference of finite values is no NaN. -/
theorem fsub_notNaN {a b : Binary32} (n : DrawId) (ha : f32IsFinite a = true) (hb : f32IsFinite b = true) :
    f32IsNaN (fsub n a b) = false := by
  obtain ⟨-, ⟨hnan, -⟩, -⟩ := (addRoundsToNearest n a b).1 ha hb
  exact hnan

theorem coverW_draw_irrelevant {u v : Grid} (h : evalFinite u v) (n n' : DrawId) : coverW n' u v = coverW n u v := by
  have hone : f32IsFinite f32One = true := by decide
  have hlane (i : Lane) : (coverW n' u v)[i] = (coverW n u v)[i] := by
    obtain ⟨hu, hv⟩ := h i
    rw [coverW_getElem, coverW_getElem, fsub_draw_irrelevant (f32IsFinite_class _ hone).1 hu (n.plus (2 * i.val)),
      fsub_draw_irrelevant (fsub_notNaN _ hone hu) hv (n.plus (2 * i.val + 1))]
  exact Vector.ext fun i hi => hlane ⟨i, hi⟩

theorem coverMask_getLsbD (w u v : Grid) (i : Lane) :
    (coverMask w u v).getLsbD i = (!f32Sign w[i] && !f32Sign u[i] && !f32Sign v[i]) := by
  simp only [coverMask, BitVec.getLsbD_not, BitVec.getLsbD_or, signmask_getLsbD, i.isLt, decide_true, Bool.true_and,
    Bool.not_or]

/-- A mask is 0 when none of its 64 bits is set. -/
theorem mask_eq_zero_iff (m : Mask) : m = 0 ↔ ∀ i : Lane, m.getLsbD i = false :=
  ⟨fun h i => by simp [h], fun h => mask_ext _ _ fun i => (h i).trans BitVec.getLsbD_zero.symm⟩

/-- Settles O19. -/
theorem coverLanes : Obligations.CoverLanes := by
  refine ⟨fun n u v => ⟨fun i => ⟨_, _, coverW_getElem n u v i⟩, fun h n' => coverW_draw_irrelevant h n n'⟩,
    fun w u v => ⟨fun i => ?_, ?_⟩⟩
  · simp only [coverMask_getLsbD, f32Sign, Bool.and_eq_true, Bool.not_eq_true', and_assoc]
  · rw [mask_eq_zero_iff]
    refine forall_congr' fun i => ?_
    simp only [coverMask_getLsbD, f32Sign, Bool.and_eq_false_iff, Bool.not_eq_false', or_assoc]

/-! ## DEPTHTEST's depths and mask (R137, R138) -/

theorem depthZ_getElem (n : DrawId) (w u v : Grid) (z0 z1 z2 : Binary32) (i : Lane) :
    (depthZ n w u v z0 z1 z2)[i] =
      fadd (n.plus (7 * i.val + 4))
        (fadd (n.plus (7 * i.val + 3)) (fmul (n.plus (7 * i.val)) w[i] z0) (fmul (n.plus (7 * i.val + 1)) u[i] z1))
        (fmul (n.plus (7 * i.val + 2)) v[i] z2) := by
  simp only [depthZ, laneadd, lanemul, gridOf_getElem]

/-- A lane survives when it was in MASK and its differences to the stored depth and to the near plane have clear
signs. -/
theorem depthMask_getLsbD_iff (n : DrawId) (mask : Mask) (old z : Grid) (i : Lane) :
    (depthMask n mask old z).getLsbD i = true ↔ mask.getLsbD i = true ∧
      f32Sign (fsub (n.plus (7 * i.val + 5)) old[i] z[i]) = false ∧
      f32Sign (fadd (n.plus (7 * i.val + 6)) z[i] f32One) = false := by
  simp only [depthMask, depthF, depthN, lanesub, laneadd, broadcast, BitVec.getLsbD_and, BitVec.getLsbD_not,
    signmask_getLsbD, gridOf_getElem, i.isLt, decide_true, Bool.true_and, Bool.and_eq_true, Bool.not_eq_true',
    and_assoc]

/-! ## The sign tests as comparisons (R143) -/

theorem f32Sign_addFinite {a b : Binary32} (h : f32Units a + f32Units b ≠ 0) :
    f32Sign (addFinite a b) = decide (f32Units a + f32Units b < 0) := by
  rw [addFinite, if_neg h, f32Sign_pack (roundMag_lt _ _)]

/-- A sum of finite values has a clear sign exactly when it is not negative, but for -0.0 + -0.0. -/
theorem f32Sign_addFinite_eq_false_iff (a b : Binary32) : f32Sign (addFinite a b) = false ↔
    0 ≤ f32Units a + f32Units b ∧ ¬(a = 0x80000000 ∧ b = 0x80000000) := by
  by_cases h : f32Units a + f32Units b = 0
  · rw [addFinite_eq_zero h]
    split
    · rename_i hzeros
      exact iff_of_false (by decide) fun hh => hh.2 hzeros
    · rename_i hzeros
      exact iff_of_true (by decide) ⟨h.ge, hzeros⟩
  · have hne : ¬(a = 0x80000000 ∧ b = 0x80000000) := by
      rintro ⟨rfl, rfl⟩
      exact h (by decide)
    rw [f32Sign_addFinite h, decide_eq_false_iff_not, not_lt]
    exact (and_iff_left hne).symm

/-- The sign of a difference compares, but for -0.0 - +0.0. -/
theorem f32Sign_fsub_eq_false_iff (n : DrawId) {a b : Binary32} (ha : f32IsFinite a = true)
    (hb : f32IsFinite b = true) : f32Sign (fsub n a b) = false ↔
      f32Units b ≤ f32Units a ∧ ¬(a = 0x80000000 ∧ b = 0x00000000) := by
  rw [fsub_finite n a b ha (by rwa [f32IsFinite_neg]), f32Sign_addFinite_eq_false_iff, f32Units_neg,
    f32Neg_eq_negZero_iff, ← sub_eq_add_neg, sub_nonneg]

/-- The near-plane test compares with -1, with no exception. -/
theorem f32Sign_fadd_one_eq_false_iff (n : DrawId) {b : Binary32} (hb : f32IsFinite b = true) :
    f32Sign (fadd n b f32One) = false ↔ f32Units (0xBF800000 : Binary32) ≤ f32Units b := by
  have hminus : f32Units (0xBF800000 : Binary32) = -f32Units f32One := by
    rw [← f32Units_neg]; rfl
  have hne : ¬(b = 0x80000000 ∧ f32One = 0x80000000) := fun h => absurd h.2 (by decide)
  rw [fadd_finite n b f32One hb (by decide), f32Sign_addFinite_eq_false_iff, and_iff_left hne, hminus,
    neg_le_iff_add_nonneg]

/-- Settles O43. -/
theorem signTestsCompare : Obligations.SignTestsCompare := by
  intro n a b ha hb
  have hsub := f32Sign_fsub_eq_false_iff n ha hb
  refine ⟨fun h => (hsub.mp h).1, fun hle hne => hsub.mpr ⟨hle, hne⟩, ?_, f32Sign_fadd_one_eq_false_iff n hb⟩
  rintro rfl rfl
  rw [fsub_finite n _ _ ha (by decide)]
  decide

/-! ## Depths stay in [-1, 1] (R142) -/

/-- A depth that passes both tests against a finite stored depth is finite: an infinity fails one of them (R139). -/
theorem finite_of_depthTests {n n' : DrawId} {old z : Binary32} (hold : f32IsFinite old = true)
    (hz : f32IsNaN z = false) (hF : f32Sign (fsub n old z) = false) (hN : f32Sign (fadd n' z f32One) = false) :
    f32IsFinite z = true := by
  obtain h | hinf | h := f32_classes z
  · simp [hz] at h
  · have hneg : f32Sign (f32Neg z) = false := by
      rwa [fsub, addWith_inf_right hold (by rwa [f32IsInf_neg])] at hF
    have hpos : f32Sign z = false := by
      rwa [fadd, addWith_inf_left hinf (.inl (by decide))] at hN
    simp [hpos] at hneg
  · exact h

/-- A depth that passes both tests lies between the near plane and the stored depth. -/
theorem depthInRange_of_depthTests {n n' : DrawId} {old z : Binary32} (hold : depthInRange old)
    (hz : f32IsNaN z = false) (hF : f32Sign (fsub n old z) = false) (hN : f32Sign (fadd n' z f32One) = false) :
    depthInRange z := by
  obtain ⟨hfin, -, hle⟩ := hold
  have hzfin := finite_of_depthTests hfin hz hF hN
  exact ⟨hzfin, (f32Sign_fadd_one_eq_false_iff n' hzfin).mp hN,
    ((f32Sign_fsub_eq_false_iff n hfin hzfin).mp hF).1.trans hle⟩

/-- Settles O44: a surviving lane's depth passed both tests, every other lane keeps its depth. -/
theorem depthStaysInRange : Obligations.DepthStaysInRange := by
  intro e t g g' hstep hrange hnan i z hz
  have hz_nan := hnan i z hz
  obtain ⟨a, w, u, v, mask, old, -, -, -, -, -, hold, rfl⟩ := (depthTest_eq_ok ..).mp hstep
  have hi := hrange i _ ((readTile_eq_some ..).mp hold i)
  rw [readLane_writeTile, if_pos rfl, select_getElem] at hz
  obtain rfl := Option.some.inj hz
  split at hz_nan
  · rename_i hm
    obtain ⟨-, hF, hN⟩ := (depthMask_getLsbD_iff ..).mp hm
    rw [if_pos hm]
    exact depthInRange_of_depthTests hi hz_nan hF hN
  · rename_i hm
    rwa [if_neg hm]

end Sys2Proof.Machine
end

section
/-! What ITER yields (41_tilemask R147). -/
namespace Sys2Proof.Machine

theorem popcount_eq_zero_iff (m : Mask) : popcount m = 0 ↔ m = 0 := by
  simp only [mask_eq_zero_iff, popcount, List.countP_eq_zero, List.mem_finRange, true_imp_iff, Bool.not_eq_true]

theorem iterYields_zero (fuel : Nat) : iterYields fuel 0 = [] := by
  cases fuel <;> rfl

theorem iterYields_succ (fuel : Nat) {m : Mask} (h : m ≠ 0) :
    iterYields (fuel + 1) m = ctz m :: iterYields fuel (clearbit m (ctz m)) := by
  rw [iterYields, iterStep, if_neg h]

/-- A list of lanes is the set bits of a mask, once each and in ascending order. -/
def listsBits (l : List Lane) (m : Mask) : Prop :=
  l.Pairwise (· < ·) ∧ (∀ i : Lane, i ∈ l ↔ m.getLsbD i = true) ∧ l.length = popcount m

theorem listsBits_nil : listsBits [] 0 :=
  ⟨.nil, by simp, ((popcount_eq_zero_iff 0).mpr rfl).symm⟩

/-- The lowest set bit stands before the others. -/
theorem listsBits_cons {l : List Lane} {m : Mask} (hm : m ≠ 0) (h : listsBits l (clearbit m (ctz m))) :
    listsBits (ctz m :: l) m := by
  obtain ⟨hbit, hleast⟩ := ctz_spec m hm
  obtain ⟨hsorted, hmem, hlen⟩ := h
  simp only [clearbit_getLsbD, Bool.and_eq_true, decide_eq_true_eq] at hmem
  refine ⟨List.pairwise_cons.mpr ⟨fun j hj => ?_, hsorted⟩, fun i => ?_, ?_⟩
  · obtain ⟨hset, hne⟩ := (hmem j).mp hj
    refine lt_of_le_of_ne (not_lt.mp fun hlt => ?_) hne
    exact absurd hset (Bool.eq_false_iff.mp (hleast j hlt))
  · rw [List.mem_cons, hmem i]
    by_cases hi : i = ctz m
    · simp only [hi, hbit, true_or]
    · simp only [hi, Ne.symm hi, false_or, ne_eq, not_false_eq_true, and_true]
  · rw [List.length_cons, hlen, popcount_clearbit m (ctz m) hbit]

/-- With steps enough for its set bits, ITER yields them all. -/
theorem iterYields_listsBits (fuel : Nat) (m : Mask) (h : popcount m ≤ fuel) : listsBits (iterYields fuel m) m := by
  induction fuel generalizing m with
  | zero =>
    obtain rfl := (popcount_eq_zero_iff m).mp (Nat.le_zero.mp h)
    exact listsBits_nil
  | succ fuel ih =>
    by_cases hm : m = 0
    · rw [hm, iterYields_zero]
      exact listsBits_nil
    · have hpop := popcount_clearbit m (ctz m) (ctz_spec m hm).1
      rw [iterYields_succ fuel hm]
      exact listsBits_cons hm (ih _ (by omega))

/-- Settles O24: a mask has at most 64 set bits. -/
theorem TileMask.iterYields : Obligations.IterYields :=
  fun m => iterYields_listsBits 65 m ((popcount_le m).trans (by omega))

end Sys2Proof.Machine
end

section
/-! RASTER's steps at R_COVER and R_DEPTH, each with its exact next state (44_commands R216, 42_tile R160, R161). -/
namespace Sys2Proof.Machine

/-! ## The end of a tile, and ITER's advance -/

/-- An engine's step at a phase that has a local one is that step, committed. -/
theorem engineStep_of_local {s : State} {e : Nat} {g g' : Engine} (hg : s.engine e = some g)
    (h : localStep (s.cfg.pixelBits e) e g = some (.ok g')) : engineStep s e = some (.next (steppedTo s e g')) := by
  rw [engineStep_local hg (localStep_running h).2, h, Option.map_some, commit_ok]

theorem enterTile_eq_enteredTile {e : Nat} {t : Tile} {g : Engine} {a : RasterArgs}
    (ha : g.snap.rasterArgs = some a) : enterTile e t g = .ok (enteredTile e t a g) :=
  (enterTile_eq_ok ..).mpr ⟨a, ha, rfl⟩

theorem nextTile_eq_leftTile {e : Nat} {t : Tile} {g : Engine} {a : RasterArgs} (ha : g.snap.rasterArgs = some a) :
    nextTile e t g = .ok (leftTile e t a g) := by
  unfold leftTile
  split
  · rename_i h
    exact (nextTile_eq_ok ..).mpr (.inr ⟨_, dif_pos h, enterTile_eq_enteredTile ha⟩)
  · rename_i h
    exact (nextTile_eq_ok ..).mpr (.inl ⟨dif_neg h, rfl⟩)

/-- ITER's advance with CUR just written. -/
theorem advanceIter_eq_iterAdvanced {e : Nat} {t : Tile} {g : Engine} {a : RasterArgs} {w u v : Grid} (cur : Mask)
    (ha : g.snap.rasterArgs = some a) (hw : g.tr.w = some w) (hu : g.tr.u = some u) (hv : g.tr.v = some v) :
    advanceIter e t { g with tr := { g.tr with cur := some cur } } = .ok (iterAdvanced e t a w u v cur g) := by
  refine (advanceIter_eq_ok ..).mpr ⟨cur, rfl, ?_⟩
  unfold iterAdvanced
  split
  · rename_i h
    exact .inl ⟨h, nextTile_eq_leftTile ha⟩
  · rename_i h
    exact .inr ⟨h, a, w, u, v, ha, hw, hu, hv, rfl⟩

/-! ## R_COVER (41_tilemask R130) -/

/-- COVER's result: W and MASK formed from the evaluator's U and V. -/
def coverFormed (e : Nat) (u v : Grid) (g : Engine) : Engine :=
  { g with
    tr := { g.tr with
      w := some (coverW ⟨e, g.fpDraws⟩ u v), mask := some (coverMask (coverW ⟨e, g.fpDraws⟩ u v) u v) }
    fpDraws := g.fpDraws + 128 }

/-- The R_COVER step is COVER, and the end of the tile or the phase R_DEPTH. -/
theorem engineStep_cover {s : State} {e : Nat} {t : Tile} {g : Engine} {a : RasterArgs} {u v : Grid}
    (hg : s.engine e = some g) (hseq : g.seq = .rCover t) (ha : g.snap.rasterArgs = some a) (hu : g.tr.u = some u)
    (hv : g.tr.v = some v) : engineStep s e = some (.next (steppedTo s e
      (if coverMask (coverW ⟨e, g.fpDraws⟩ u v) u v = 0 then leftTile e t a (coverFormed e u v g)
       else { coverFormed e u v g with seq := .rDepth t }))) := by
  have hstep : coverStep e t g = .ok (if coverMask (coverW ⟨e, g.fpDraws⟩ u v) u v = 0
      then leftTile e t a (coverFormed e u v g) else { coverFormed e u v g with seq := .rDepth t }) := by
    refine (coverStep_eq_ok ..).mpr ⟨u, v, hu, hv, ?_⟩
    split
    · rename_i h
      exact .inl ⟨h, nextTile_eq_leftTile (g := coverFormed e u v g) ha⟩
    · rename_i h
      exact .inr ⟨h, rfl⟩
  refine engineStep_of_local hg ?_
  rw [localStep, hseq, ← hstep]

/-- Settles O21. -/
theorem Raster.coverStep : Obligations.CoverStep :=
  fun _ _ _ _ _ _ _ hg hseq _ ha hu hv => engineStep_cover hg hseq ha hu hv

/-! ## R_DEPTH (41_tilemask R137 to R145) -/

/-- DEPTHTEST keeps the snapshot, the grids and COLOR. -/
theorem depthTest_frame {e : Nat} {t : Tile} {g g1 : Engine} (h : depthTest e t g = .ok g1) :
    g1.snap = g.snap ∧ g1.tr.w = g.tr.w ∧ g1.tr.u = g.tr.u ∧ g1.tr.v = g.tr.v ∧ g1.color = g.color := by
  obtain ⟨a, w, u, v, mask, old, -, -, -, -, -, -, rfl⟩ := (depthTest_eq_ok ..).mp h
  exact ⟨rfl, rfl, rfl, rfl, rfl⟩

/-- The R_DEPTH step is DEPTHTEST and ITER's first advance from its mask. -/
theorem engineStep_depth {s : State} {e : Nat} {t : Tile} {g g1 : Engine} {a : RasterArgs} {w u v : Grid} {m : Mask}
    (hg : s.engine e = some g) (hseq : g.seq = .rDepth t) (htest : depthTest e t g = .ok g1)
    (ha : g.snap.rasterArgs = some a) (hw : g.tr.w = some w) (hu : g.tr.u = some u) (hv : g.tr.v = some v)
    (hm : g1.tr.mask = some m) :
    engineStep s e = some (.next (steppedTo s e (iterAdvanced e t a w u v m g1))) := by
  obtain ⟨hsnap, hw1, hu1, hv1, -⟩ := depthTest_frame htest
  have hadvance := advanceIter_eq_iterAdvanced (e := e) (t := t) m (hsnap ▸ ha) (hw1.trans hw) (hu1.trans hu)
    (hv1.trans hv)
  have hstep := (depthStep_eq_ok ..).mpr ⟨g1, m, htest, hm, hadvance⟩
  refine engineStep_of_local hg ?_
  rw [localStep, hseq, ← hstep]

/-- Settles O23. -/
theorem Raster.depthStep : Obligations.DepthStep := by
  intro s e g g1 t a w u v m hg hseq _ htest ha hw hu hv hm
  obtain ⟨-, -, -, -, hcolor⟩ := depthTest_frame htest
  exact ⟨engineStep_depth hg hseq htest ha hw hu hv hm, hcolor⟩

/-- Settles O22. -/
theorem depthTestLanes : Obligations.DepthTestLanes := by
  intro e t g a w u v old mask ha hw hu hv hmask hold
  have htest := (depthTest_eq_ok e t g _).mpr
    ⟨a, w, u, v, mask, old, ha, hw, hu, hv, hmask, (readTile_eq_some ..).mpr hold, rfl⟩
  refine ⟨_, _, _, ⟨htest, fun s hg hseq => engineStep_depth hg hseq htest ha hw hu hv rfl⟩,
    fun i => ⟨_, _, _, _, _, _, _, depthZ_getElem .., depthMask_getLsbD_iff ..⟩, fun i => ?_, fun t' i hne => ?_⟩
  · rw [readLane_writeTile, if_pos rfl, select_getElem]
  · rw [readLane_writeTile, if_neg hne.symm]

end Sys2Proof.Machine
end

section
/-! Runs of one engine and its agents, and the RASTER that covers nothing (44_commands R219, 43_quad_group R190,
R194). -/
namespace Sys2Proof.Machine

/-! ## Moves of an engine and its agents -/

section
variable {agent : List Obs → Request → Response} {s s' : State} {e n : Nat} {g : Engine} {r : Request}

/-- A waiting request is answered as the agent says. -/
theorem agentRun_succ_waiting (hg : s.engine e = some g) (hp : g.port = .waiting r) :
    agentRun agent (n + 1) s e = agentRun agent n (s.answer e (agent s.history r)) e := by
  simp [agentRun, hg, hp]

/-- With no request waiting the engine steps. -/
theorem agentRun_succ_step (hg : s.engine e = some g) (hp : ∀ r, g.port ≠ .waiting r)
    (h : engineStep s e = some (.next s')) : agentRun agent (n + 1) s e = agentRun agent n s' e := by
  cases hq : g.port with
  | waiting r => exact absurd hq (hp r)
  | quiet => simp [agentRun, hg, hq, h]
  | answered r a => simp [agentRun, hg, hq, h]

/-- A run is its first move and the rest. -/
theorem agentRun_succ (agent : List Obs → Request → Response) (n : Nat) (s : State) (e : Nat) :
    agentRun agent (n + 1) s e = (agentRun agent 1 s e).bind fun s' => agentRun agent n s' e := by
  simp only [agentRun]
  cases s.engine e with
  | none => rfl
  | some g =>
    simp only
    cases g.port with
    | waiting r => rfl
    | quiet | answered r a =>
      simp only
      cases engineStep s e with
      | none => rfl
      | some o => cases o <;> rfl

/-- A run goes on from where its first moves led. -/
theorem agentRun_add (agent : List Obs → Request → Response) (m n : Nat) (s : State) (e : Nat) :
    agentRun agent (m + n) s e = (agentRun agent m s e).bind fun s' => agentRun agent n s' e := by
  induction m generalizing s with
  | zero => rw [Nat.zero_add]; rfl
  | succ m ih =>
    rw [Nat.succ_add, agentRun_succ, agentRun_succ agent m, Option.bind_assoc]
    simp only [ih]

/-- The agent's answer, of its request's type, has come. -/
theorem answer_waiting {a : Response} (hg : s.engine e = some g) (hp : g.port = .waiting r) (ha : answers r a = true) :
    s.answer e a = (s.setEngine e { g with port := .answered r (a.cut (s.cfg.pixelBits e)) }).log
      (.response e (a.cut (s.cfg.pixelBits e))) := by
  simp [State.answer, hg, hp, ha]

theorem steppedTo_history_waiting (s : State) (e : Nat) (hp : g.port = .waiting r) :
    (steppedTo s e g).history = .request e r :: s.history := by
  rw [steppedTo_eq, State.logRequest_history, hp, State.setEngine_history]

theorem steppedTo_quiet (s : State) (e : Nat) (hp : g.port = .quiet) : steppedTo s e g = s.setEngine e g := by
  rw [steppedTo_eq, hp]; rfl

theorem steppedTo_engine_self (g' : Engine) (hg : s.engine e = some g) : (steppedTo s e g').engine e = some g' := by
  rw [steppedTo_engine, State.engine_setEngine_self s e g g' hg]

end

theorem requestsOf_request (e : Nat) (r : Request) (h : List Obs) :
    requestsOf e (.request e r :: h) = requestsOf e h ++ [r] := by
  simp [requestsOf]

theorem requestsOf_response (e : Nat) (a : Response) (h : List Obs) :
    requestsOf e (.response e a :: h) = requestsOf e h := by
  simp [requestsOf]

/-! ## A tile that covers nothing -/

/-- With an answer that covers nothing, three moves take the engine from R_EVAL(t) out of the tile (42_tile R160). -/
theorem agentRun_emptyTile {agent : List Obs → Request → Response} {s : State} {e : Nat} {g : Engine} {t : Tile}
    {a : RasterArgs} {tri : Word} {pos scale : Point} {u v : Grid} (hg : s.engine e = some g) (hseq : g.seq = .rEval t)
    (hport : g.port = .waiting (.eval tri pos scale)) (ha : g.snap.rasterArgs = some a)
    (hanswer : agent s.history (.eval tri pos scale) = .eval u v)
    (hmask : coverMask (coverW ⟨e, g.fpDraws⟩ u v) u v = 0) :
    ∃ s2, agentRun agent 3 s e = some (steppedTo s2 e (leftTile e t a (coverFormed e u v (takeEval t u v g)))) ∧
      s2.engine e = some (takeEval t u v g) ∧ s2.history = .response e (.eval u v) :: s.history := by
  let g1 : Engine := { g with port := .answered (.eval tri pos scale) (.eval u v) }
  let g2 := takeEval t u v g
  let s1 := (s.setEngine e g1).log (.response e (.eval u v))
  let s2 := s1.setEngine e g2
  have hs1 : s1.engine e = some g1 := s.engine_setEngine_self e g g1 hg
  have hs2 : s2.engine e = some g2 := s1.engine_setEngine_self e g1 g2 hs1
  have hcame : s.answer e (.eval u v) = s1 := answer_waiting hg hport rfl
  have htake : engineStep s1 e = some (.next s2) := by
    have hlocal : localStep (s1.cfg.pixelBits e) e g1 = some (.ok g2) := by
      rw [localStep, show g1.seq = .rEval t from hseq]; rfl
    exact engineStep_of_local hs1 hlocal
  have hcover := engineStep_cover (u := u) (v := v) hs2 rfl ha rfl rfl
  rw [if_pos (show coverMask (coverW ⟨e, g2.fpDraws⟩ u v) u v = 0 from hmask)] at hcover
  refine ⟨s2, ?_, hs2, rfl⟩
  rw [agentRun_succ_waiting hg hport, hanswer, hcame, agentRun_succ_step hs1 (by simp [g1]) htake,
    agentRun_succ_step hs2 (by simp [g2, takeEval]) hcover]
  rfl

/-! ## The whole RASTER -/

/-- The EVAL request of tile t of a RASTER accepted by engine `g` (45_interfaces R251, 43_quad_group R192), with the
draw numbers of assumption log 3. -/
def tileRequest (e : Nat) (g : Engine) (t : Tile) : Request :=
  .eval g.rasterArgs.tri (tilePosition ⟨e, g.fpDraws + 136 * t.val⟩ g.rasterArgs.pos g.rasterArgs.scale t)
    g.rasterArgs.scale

/-- Engine e, as `g0` when its RASTER was accepted, has made the EVAL requests of the first k tiles and no other since,
and has kept its buffers. -/
structure AskedOnly (e : Nat) (g0 : Engine) (past : List Obs) (k : Nat) (s : State) (g : Engine) : Prop where
  engine : s.engine e = some g
  depth : g.depth = g0.depth
  color : g.color = g0.color
  fault : g.fault = g0.fault
  init : g.init = g0.init
  requests : ∃ h, s.history = h ++ past ∧ requestsOf e h = ((List.finRange 16).take k).map (tileRequest e g0)

/-- The engine waits for the evaluator's answer on tile t. -/
structure AwaitsTile (e : Nat) (g0 : Engine) (past : List Obs) (t : Tile) (s : State) (g : Engine) : Prop
    extends AskedOnly e g0 past (t.val + 1) s g where
  seq : g.seq = .rEval t
  args : g.snap.rasterArgs = some g0.rasterArgs
  port : g.port = .waiting (tileRequest e g0 t)
  draws : g.fpDraws = g0.fpDraws + 136 * t.val + 8

/-- Whenever the run from `s` reaches a waiting request, the agent answers it with an EVAL response of COVER mask 0. -/
def coversNothing (agent : List Obs → Request → Response) (s : State) (e : Nat) : Prop :=
  ∀ n s' g' r, agentRun agent n s e = some s' → s'.engine e = some g' → g'.port = .waiting r →
    ∃ u v, agent s'.history r = .eval u v ∧ coverMask (coverW ⟨e, g'.fpDraws⟩ u v) u v = 0

theorem take_succ_map_tileRequest (e : Nat) (g : Engine) (t : Tile) :
    ((List.finRange 16).take (t.val + 1)).map (tileRequest e g) =
      ((List.finRange 16).take t.val).map (tileRequest e g) ++ [tileRequest e g t] := by
  rw [List.take_succ_eq_append_getElem (by simp), List.map_append]
  simp

section
variable {agent : List Obs → Request → Response} {s0 s : State} {e : Nat} {g0 g : Engine} {past : List Obs} {t : Tile}

/-- After an answer that covers nothing the next tile's request is out. -/
theorem AwaitsTile.next {m : Nat} (h : AwaitsTile e g0 past t s g) (hrun : agentRun agent m s0 e = some s)
    (hagent : coversNothing agent s0 e) (hlt : t.val + 1 < 16) :
    ∃ s' g', agentRun agent (m + 3) s0 e = some s' ∧ AwaitsTile e g0 past ⟨t.val + 1, hlt⟩ s' g' := by
  obtain ⟨u, v, hanswer, hmask⟩ := hagent m s g _ hrun h.engine h.port
  obtain ⟨s2, hrun3, hs2, hhist⟩ := agentRun_emptyTile h.engine h.seq h.port h.args hanswer hmask
  let gl := coverFormed e u v (takeEval t u v g)
  let g' := enteredTile e ⟨t.val + 1, hlt⟩ g0.rasterArgs gl
  have hleft : leftTile e t g0.rasterArgs gl = g' := dif_pos hlt
  have hdraws : gl.fpDraws = g0.fpDraws + 136 * (t.val + 1) := by
    have hcount : gl.fpDraws = g.fpDraws + 128 := rfl
    have := h.draws
    omega
  have hport : g'.port = .waiting (tileRequest e g0 ⟨t.val + 1, hlt⟩) := by
    simp only [g', enteredTile, tileRequest, hdraws]
  have hrun' : agentRun agent (m + 3) s0 e = some (steppedTo s2 e g') := by
    rw [agentRun_add, hrun, ← hleft]
    exact hrun3
  obtain ⟨past', hpast, hreq⟩ := h.requests
  refine ⟨_, g', hrun', ⟨steppedTo_engine_self _ hs2, h.depth, h.color, h.fault, h.init,
    .request e (tileRequest e g0 ⟨t.val + 1, hlt⟩) :: .response e (.eval u v) :: past', ?_, ?_⟩, rfl, h.args, hport,
    congrArg (· + 8) hdraws⟩
  · rw [steppedTo_history_waiting _ _ hport, hhist, hpast]; rfl
  · rw [requestsOf_request, requestsOf_response, hreq, take_succ_map_tileRequest e g0 ⟨t.val + 1, hlt⟩]

/-- After an answer that covers nothing of tile 15 the command has ended, with no other request. -/
theorem AwaitsTile.last {m : Nat} (h : AwaitsTile e g0 past t s g) (hrun : agentRun agent m s0 e = some s)
    (hagent : coversNothing agent s0 e) (hlast : ¬ t.val + 1 < 16) :
    ∃ s' g', agentRun agent (m + 3) s0 e = some s' ∧ AskedOnly e g0 past 16 s' g' ∧ g'.busy = false ∧
      g'.seq = .idle := by
  obtain ⟨u, v, hanswer, hmask⟩ := hagent m s g _ hrun h.engine h.port
  obtain ⟨s2, hrun3, hs2, hhist⟩ := agentRun_emptyTile h.engine h.seq h.port h.args hanswer hmask
  have hleft : leftTile e t g0.rasterArgs (coverFormed e u v (takeEval t u v g)) =
      (coverFormed e u v (takeEval t u v g)).finish := dif_neg hlast
  have hrun' : agentRun agent (m + 3) s0 e =
      some (s2.setEngine e (coverFormed e u v (takeEval t u v g)).finish) := by
    rw [agentRun_add, hrun, ← steppedTo_quiet s2 e (Engine.finish_port _), ← hleft]
    exact hrun3
  obtain ⟨past', hpast, hreq⟩ := h.requests
  refine ⟨_, _, hrun', ⟨State.engine_setEngine_self _ _ _ _ hs2, h.depth, h.color, h.fault, h.init,
    .response e (.eval u v) :: past', ?_, ?_⟩, rfl, rfl⟩
  · rw [State.setEngine_history, hhist, hpast]; rfl
  · rw [requestsOf_response, hreq, show t.val + 1 = 16 by omega]

/-- Three moves a tile. -/
theorem awaitsTile_run (h0 : AwaitsTile e g0 past 0 s0 g) (hagent : coversNothing agent s0 e) (k : Nat) (hk : k < 16) :
    ∃ s' g', agentRun agent (3 * k) s0 e = some s' ∧ AwaitsTile e g0 past ⟨k, hk⟩ s' g' := by
  induction k with
  | zero => exact ⟨s0, g, rfl, h0⟩
  | succ k ih =>
    obtain ⟨s1, g1, hrun, h1⟩ := ih (by omega)
    exact h1.next hrun hagent hk

end

/-- An accepted RASTER waits for the evaluator's answer on tile 0. -/
theorem raster_awaitsTile {s : State} {g : Engine} (hg : s.engine s.target = some g) (hf : g.fault = false)
    (hb : g.busy = false) (hl : g.locked = false) (hv : ∀ r ∈ usesRaster, g.isValid r = true) (hi : g.init = true) :
    ∃ s1 g1, exec .raster s = .next s1 ∧ AwaitsTile s.target g s.history 0 s1 g1 := by
  obtain ⟨snap, hargs, hexec, -⟩ := rasterAccepted s g hg hf hb hl hv hi
  have hreq := (requestsOf_request s.target (tileRequest s.target g 0) []).trans
    (take_succ_map_tileRequest s.target g 0).symm
  exact ⟨_, _, hexec, ⟨State.engine_setEngine_self _ _ _ _ hg, rfl, rfl, rfl, rfl, _, rfl, hreq⟩, rfl, hargs, rfl, rfl⟩

/-- Settles O26. -/
theorem rasterOutsideBlock : Obligations.RasterOutsideBlock := by
  intro s g agent hg hf hb hl hv hi
  obtain ⟨s1, g1, hexec, h0⟩ := raster_awaitsTile hg hf hb hl hv hi
  refine ⟨s1, hexec, fun hagent => ?_⟩
  obtain ⟨s15, g15, hrun, h15⟩ := awaitsTile_run h0 hagent 15 (by omega)
  obtain ⟨s2, g2, hend, h, hbusy, hseq⟩ := h15.last hrun hagent (by decide)
  obtain ⟨past, hpast, hreq⟩ := h.requests
  exact ⟨s2, g2, past, hend, h.engine, hbusy, hseq, h.depth, h.color, h.fault.trans hf, h.init.trans hi, hpast, hreq⟩

end Sys2Proof.Machine
end

section
/-! Where WRITE pushes each lane, and that a push order reaches every pixel of the block once (42_tile R168 to R170). -/
namespace Sys2Proof.Machine

/-! ## Coordinates -/

/-- An accepted origin plus an offset inside the block is a u32 (40_lane_primitives R117). -/
theorem origin_add_toNat {origin : Word} {offset : Nat} (ho : origin.toNat ≤ maxOrigin) (hlt : offset < 32) :
    (BitVec.ofNat 32 (origin.toNat + offset)).toNat = origin.toNat + offset := by
  rw [BitVec.toNat_ofNat]
  refine Nat.mod_eq_of_lt ?_
  simp only [maxOrigin] at ho
  omega

theorem pushX_toNat {ox : Word} (ho : ox.toNat ≤ maxOrigin) (t : Tile) (i : Lane) :
    (pushX ox t i).toNat = ox.toNat + blockX t i :=
  origin_add_toNat ho (blockX_lt t i)

theorem pushY_toNat {oy : Word} (ho : oy.toNat ≤ maxOrigin) (t : Tile) (i : Lane) :
    (pushY oy t i).toNat = oy.toNat + blockY t i :=
  origin_add_toNat ho (blockY_lt t i)

/-- A lane stands on a block pixel exactly when it is that pixel's lane (40_lane_primitives R116). -/
theorem block_eq_iff (lane : Tile × Lane) (x y : Fin 32) :
    (blockX lane.1 lane.2 = x.val ∧ blockY lane.1 lane.2 = y.val) ↔ lane = (tileAt x y, laneAt x y) := by
  constructor
  · rintro ⟨hx, hy⟩
    obtain rfl : (⟨_, blockX_lt lane.1 lane.2⟩ : Fin 32) = x := Fin.ext hx
    obtain rfl : (⟨_, blockY_lt lane.1 lane.2⟩ : Fin 32) = y := Fin.ext hy
    rw [tileAt_block, laneAt_block]
  · rintro rfl
    exact ⟨blockX_at x y, blockY_at x y⟩

/-! ## The push order -/

theorem laneOfNumber_eq_iff (k : Fin 1024) (t : Tile) (i : Lane) : laneOfNumber k = (t, i) ↔ k = numberOfLane t i := by
  simp only [laneOfNumber, numberOfLane, Prod.mk.injEq, Fin.ext_iff]
  omega

/-- A push order reaches every lane of every tile exactly once (42_tile R168). -/
theorem existsUnique_writeOrder (n : DrawId) (lane : Tile × Lane) : ∃! k, writeOrder n k = lane := by
  have hiff : ∀ k, writeOrder n k = lane ↔ Config.writeOrder n k = numberOfLane lane.1 lane.2 := fun k =>
    laneOfNumber_eq_iff _ lane.1 lane.2
  simp only [hiff]
  exact (Config.writeOrder n).bijective.existsUnique _

/-- Settles O29. -/
theorem writeCoordinates : Obligations.WriteCoordinates := by
  intro n ox oy hox hoy
  refine ⟨fun t i => ⟨?_, ?_, rfl⟩, fun x y => ?_⟩
  · rw [pushX_toNat hox, blockX_eq, tileX_eq]
    omega
  · rw [pushY_toNat hoy, blockY_eq, tileY_eq]
    omega
  · have hpixel : ∀ lane : Tile × Lane, ((pushX ox lane.1 lane.2).toNat = ox.toNat + x.val ∧
        (pushY oy lane.1 lane.2).toNat = oy.toNat + y.val) ↔ lane = (tileAt x y, laneAt x y) := fun lane => by
      rw [pushX_toNat hox, pushY_toNat hoy, Nat.add_left_cancel_iff, Nat.add_left_cancel_iff, block_eq_iff]
    simp only [hpixel]
    exact existsUnique_writeOrder n _

end Sys2Proof.Machine
end

section
/-! CLEAR's one engine step, and CLEAR twice (42_tile R165, R166). -/
namespace Sys2Proof.Machine

/-- Replacing an engine twice is replacing it by the second. -/
@[simp] theorem State.setEngine_setEngine (s : State) (e : Nat) (g g' : Engine) :
    (s.setEngine e g).setEngine e g' = s.setEngine e g' := by
  simp [State.setEngine]

/-- Engine `g` after a whole CLEAR, from its acceptance to its end (44_commands R210). -/
def cleared (pixelBits : Nat) (g : Engine) : Engine :=
  { startClear pixelBits g with
    depth := fillBuffer f32One, color := fillBuffer (g.fillPixel pixelBits), init := true, busy := false, seq := .idle,
    port := .quiet }

/-- The engine step of an accepted CLEAR fills both buffers and ends the command. -/
theorem engineStep_clear {s : State} {e : Nat} {g : Engine} (hg : s.engine e = some g) :
    engineStep (s.setEngine e (startClear (s.cfg.pixelBits e) g)) e =
      some (.next (s.setEngine e (cleared (s.cfg.pixelBits e) g))) := by
  have hstep : clearStep (s.cfg.pixelBits e) (startClear (s.cfg.pixelBits e) g) =
      .ok (cleared (s.cfg.pixelBits e) g) :=
    (clearStep_eq_ok ..).mpr ⟨_, fillPixel_capture g _ none none, rfl⟩
  have hrun := engineStep_of_local (State.engine_setEngine_self s e g (startClear (s.cfg.pixelBits e) g) hg)
    (congrArg some hstep)
  rwa [steppedTo_quiet _ _ rfl, State.setEngine_setEngine] at hrun

/-- A CLEAR that is accepted takes one engine step. -/
theorem clear_run {s : State} {g : Engine} (hg : s.engine s.target = some g) (hf : g.fault = false)
    (hb : g.busy = false) (hl : g.locked = false)
    (hv : ∀ r ∈ usesClear (s.cfg.pixelBits s.target), g.isValid r = true) :
    ∃ s1, exec .clear s = .next s1 ∧ engineStep s1 s.target =
      some (.next (s.setEngine s.target (cleared (s.cfg.pixelBits s.target) g))) :=
  ⟨_, presentTo_accept hg ⟨hf, hb, hl, by simpa [checksClear, Engine.allValid] using hv⟩, engineStep_clear hg⟩

/-- Settles O15. -/
theorem clearCompletes : Obligations.ClearCompletes := by
  intro s g hg hf hb hl hv
  obtain ⟨s1, hexec, hstep⟩ := clear_run hg hf hb hl hv
  exact ⟨s1, _, _, hexec, hstep, rfl, rfl, rfl, rfl, readLane_fillBuffer _, readLane_fillBuffer _, rfl, rfl, rfl, rfl,
    rfl, rfl⟩

/-- Settles O17: the second CLEAR finds the FILL registers and the flags that the first one found. -/
theorem clearIdempotent : Obligations.ClearIdempotent := by
  intro s g hg hf hb hl hv
  obtain ⟨s1, hexec1, hstep1⟩ := clear_run hg hf hb hl hv
  have hg2 := State.engine_setEngine_self s s.target g (cleared (s.cfg.pixelBits s.target) g) hg
  obtain ⟨s3, hexec2, hstep2⟩ := clear_run hg2 hf rfl hl hv
  exact ⟨s1, _, s3, _, _, _, hexec1, hstep1, hexec2, hstep2, hg2, State.engine_setEngine_self _ _ _ _ hg2, rfl, rfl,
    rfl, rfl⟩

end Sys2Proof.Machine
end

section
/-! The engine steps that take a response, and RASTER's, each with its exact next state (44_commands R216, 42_tile R161,
R162). -/
namespace Sys2Proof.Machine

/-! ## The step at each phase that waits for a port -/

/-- The port has the answer that the phase of its response's type takes. -/
def PortState.carries (p : PortState) : Response → Prop
  | .eval u v => p.evalAnswer = some (u, v)
  | .interp attr => p.interpAnswer = some attr
  | .frag q => p.fragAnswer = some q
  | .blend q => p.blendAnswer = some q
  | .ack => p.pushTaken = some ()

/-- A response of its request's type is taken by its port's phase (45_interfaces R262). -/
theorem carries_of_answers {p : PortState} {r : Request} {a : Response} (h : answers r a = true)
    (hp : p = .answered r a) : p.carries a := by
  rw [hp]
  cases a <;> cases r <;> cases h <;> rfl

section
variable {pb e : Nat} {g : Engine} {t : Tile} {i : Lane} {u v : Grid} {attr : Attr} {p : Pixel} {k : Fin 1024}

theorem localStep_rEval (hs : g.seq = .rEval t) (hp : g.port.carries (.eval u v)) :
    localStep pb e g = some (.ok (takeEval t u v g)) := by
  rw [localStep, hs, show g.port.evalAnswer = some (u, v) from hp]; rfl

theorem localStep_rInterp (hs : g.seq = .rInterp t i) (hp : g.port.carries (.interp attr)) :
    localStep pb e g = some (takeInterp t i attr g) := by
  rw [localStep, hs, show g.port.interpAnswer = some attr from hp]; rfl

theorem localStep_rFrag (hs : g.seq = .rFrag t i) (hp : g.port.carries (.frag p)) :
    localStep pb e g = some (takeFrag t i p g) := by
  rw [localStep, hs, show g.port.fragAnswer = some p from hp]; rfl

theorem localStep_rBlend (hs : g.seq = .rBlend t i) (hp : g.port.carries (.blend p)) :
    localStep pb e g = some (takeBlend e t i p g) := by
  rw [localStep, hs, show g.port.blendAnswer = some p from hp]; rfl

theorem localStep_wPush (hs : g.seq = .wPush k) (hp : g.port.carries .ack) :
    localStep pb e g = some (takeAck e g) := by
  rw [localStep, hs, show g.port.pushTaken = some () from hp]; rfl

end

/-! ## RASTER -/

/-- Settles O18. -/
theorem responsesTaken : Obligations.ResponsesTaken := by
  intro s e g t i a r hg ha
  refine ⟨fun u v hseq hr hp => ?_, fun attr hseq hr hp => ?_, fun p old hseq hr hp hold => ?_⟩
  · have hstep := engineStep_of_local hg (localStep_rEval hseq (carries_of_answers hr hp))
    rwa [steppedTo_quiet _ _ rfl] at hstep
  · have htake := (takeInterp_eq_ok t i attr g _).mpr ⟨a, ha, rfl⟩
    exact engineStep_of_local hg ((localStep_rInterp hseq (carries_of_answers hr hp)).trans (congrArg some htake))
  · have htake := (takeFrag_eq_ok t i p g _).mpr ⟨a, old, ha, hold, rfl⟩
    exact engineStep_of_local hg ((localStep_rFrag hseq (carries_of_answers hr hp)).trans (congrArg some htake))

/-- ITER's advance from the CUR that an earlier step left. -/
theorem advanceIter_of_cur {e : Nat} {t : Tile} {g : Engine} {a : RasterArgs} {w u v : Grid} {cur : Mask}
    (ha : g.snap.rasterArgs = some a) (hw : g.tr.w = some w) (hu : g.tr.u = some u) (hv : g.tr.v = some v)
    (hcur : g.tr.cur = some cur) : advanceIter e t g = .ok (iterAdvanced e t a w u v cur g) := by
  rw [← advanceIter_eq_iterAdvanced cur ha hw hu hv, ← hcur]

/-- Settles O25: the step writes the one element, and ITER advances from the CUR before it. -/
theorem blendTaken : Obligations.BlendTaken := by
  intro s e g t i a w u v cur r p hg hseq hr hp ha hw hu hv hcur
  refine ⟨writeLane g.color t i p, ?_, ?_, fun t' i' hne => ?_⟩
  · have htake : takeBlend e t i p g = _ :=
      advanceIter_of_cur (g := { g with color := writeLane g.color t i p, port := .quiet }) ha hw hu hv hcur
    exact engineStep_of_local hg ((localStep_rBlend hseq (carries_of_answers hr hp)).trans (congrArg some htake))
  · rw [readLane_writeLane, if_pos ⟨rfl, rfl⟩]
  · rw [readLane_writeLane, if_neg fun h => hne (Prod.ext h.1.symm h.2.symm)]

end Sys2Proof.Machine
end

section
/-! WRITE's steps and a whole WRITE (44_commands R225, 42_tile R168 to R170). -/
namespace Sys2Proof.Machine

/-! ## One push -/

/-- Push k of a WRITE from the origin (ox, oy) in the order of draw n on engine e (42_tile R169). -/
def pushRequest (e : Nat) (ox oy : Word) (n : Nat) (color : Buffer Pixel) (k : Fin 1024) : Request :=
  let lane := writeOrder ⟨e, n⟩ k
  .push (pushX ox lane.1 lane.2) (pushY oy lane.1 lane.2) ((readLane color lane.1 lane.2).getD 0)

/-- Engine `g` with push k just issued. -/
def pushIssued (e : Nat) (ox oy : Word) (n : Nat) (k : Fin 1024) (g : Engine) : Engine :=
  { g with
    seq := .wPush k, tr := { g.tr with pushk := some k }, port := .waiting (pushRequest e ox oy n g.color k) }

/-- With every color written, the push can be issued. -/
theorem issuePush_eq_pushIssued {e : Nat} {ox oy : Word} {n : Nat} {g : Engine} (k : Fin 1024)
    (hargs : g.snap.writeArgs = some (ox, oy, n)) (hw : allWritten g.color) :
    issuePush e k g = .ok (pushIssued e ox oy n k g) := by
  obtain ⟨p, hp⟩ := Option.isSome_iff_exists.mp (hw (writeOrder ⟨e, n⟩ k).1 (writeOrder ⟨e, n⟩ k).2)
  refine (issuePush_eq_ok ..).mpr ⟨ox, oy, n, p, hargs, hp, ?_⟩
  simp only [pushIssued, pushRequest, hp, Option.getD_some]

section
variable {s : State} {e : Nat} {g : Engine} {k : Fin 1024} {ox oy : Word} {n : Nat}

/-- The sink has taken push k, and there is another. -/
theorem engineStep_pushNext (hg : s.engine e = some g) (hseq : g.seq = .wPush k) (hk : g.tr.pushk = some k)
    (hport : g.port.carries .ack) (hargs : g.snap.writeArgs = some (ox, oy, n)) (hw : allWritten g.color)
    (h : k.val + 1 < 1024) :
    engineStep s e = some (.next (steppedTo s e (pushIssued e ox oy n ⟨k.val + 1, h⟩ g))) := by
  have htake := (takeAck_eq_ok e g _).mpr ⟨k, hk, .inl ⟨h, issuePush_eq_pushIssued _ hargs hw⟩⟩
  exact engineStep_of_local hg ((localStep_wPush hseq hport).trans (congrArg some htake))

/-- The sink has taken the last push. -/
theorem engineStep_pushLast (hg : s.engine e = some g) (hseq : g.seq = .wPush k) (hk : g.tr.pushk = some k)
    (hport : g.port.carries .ack) (h : ¬ k.val + 1 < 1024) :
    engineStep s e = some (.next (s.setEngine e g.finish)) := by
  have htake := (takeAck_eq_ok e g _).mpr ⟨k, hk, .inr ⟨h, rfl⟩⟩
  rw [engineStep_of_local hg ((localStep_wPush hseq hport).trans (congrArg some htake)),
    steppedTo_quiet _ _ g.finish_port]

end

/-- Settles O27. -/
theorem pushTaken : Obligations.PushTaken := by
  intro s e g k r ox oy n hg hseq hk hr hp hargs hw
  have hport := carries_of_answers hr hp
  refine ⟨fun h => ?_, fun hlast => engineStep_pushLast hg hseq hk hport (by omega)⟩
  obtain ⟨p, hpix⟩ := Option.isSome_iff_exists.mp
    (hw (writeOrder ⟨e, n⟩ ⟨k.val + 1, h⟩).1 (writeOrder ⟨e, n⟩ ⟨k.val + 1, h⟩).2)
  refine ⟨p, hpix, ?_⟩
  rw [engineStep_pushNext hg hseq hk hport hargs hw h]
  simp only [pushIssued, pushRequest, hpix, Option.getD_some]

/-! ## The whole WRITE -/

/-- A request older than a stretch of history comes before that stretch's requests. -/
theorem requestsOf_append_request (e : Nat) (r : Request) (h : List Obs) :
    requestsOf e (h ++ [.request e r]) = r :: requestsOf e h := by
  simp [requestsOf]

theorem requestsOf_append_answered (e : Nat) (r : Request) (a : Response) (h : List Obs) :
    requestsOf e (h ++ [.request e r, .response e a]) = r :: requestsOf e h := by
  simp [requestsOf]

/-- What is left of a list over all numbers begins with the first number left. -/
theorem map_drop_finRange {α : Type} {n : Nat} (f : Fin n → α) (k : Fin n) :
    ((List.finRange n).drop k.val).map f = f k :: ((List.finRange n).drop (k.val + 1)).map f := by
  rw [List.drop_eq_getElem_cons (by simp), List.map_cons, List.getElem_finRange]
  rfl

/-- The sink that takes every push (45_interfaces R258). -/
def takesAll : List Obs → Request → Response := fun _ _ => .ack

/-- Engine `g` runs a WRITE and waits for the sink to take push k. -/
structure AwaitsSink (e : Nat) (ox oy : Word) (n : Nat) (k : Fin 1024) (g : Engine) : Prop where
  seq : g.seq = .wPush k
  pushk : g.tr.pushk = some k
  args : g.snap.writeArgs = some (ox, oy, n)
  port : g.port = .waiting (pushRequest e ox oy n g.color k)
  written : allWritten g.color

/-- Engine `g` after the last push of its WRITE. -/
def writeFinished (g : Engine) : Engine := { g with tr := { g.tr with pushk := some 1023 } }.finish

section
variable {s : State} {e : Nat} {ox oy : Word} {n : Nat} {k : Fin 1024} {g : Engine}

/-- The sink's acceptance comes first. -/
theorem AwaitsSink.agentRun_ack (h : AwaitsSink e ox oy n k g) (hg : s.engine e = some g) (m : Nat) :
    ∃ s1 g1, agentRun takesAll (m + 1) s e = agentRun takesAll m s1 e ∧ s1.engine e = some g1 ∧
      s1.history = .response e .ack :: s.history ∧
      g1 = { g with port := .answered (pushRequest e ox oy n g.color k) .ack } := by
  refine ⟨_, _, agentRun_succ_waiting hg h.port, ?_, ?_, rfl⟩
  all_goals rw [show takesAll s.history _ = .ack from rfl, answer_waiting hg h.port rfl]
  · exact State.engine_setEngine_self s e g _ hg
  · rfl

/-- Two moves take the WRITE to its next push. -/
theorem AwaitsSink.agentRun_next (h : AwaitsSink e ox oy n k g) (hg : s.engine e = some g) (hlt : k.val + 1 < 1024)
    (m : Nat) : ∃ s', agentRun takesAll (m + 2) s e = agentRun takesAll m s' e ∧
      s'.engine e = some (pushIssued e ox oy n ⟨k.val + 1, hlt⟩ g) ∧
      s'.history = .request e (pushRequest e ox oy n g.color ⟨k.val + 1, hlt⟩) :: .response e .ack :: s.history := by
  obtain ⟨s1, g1, hack, hg1, hhist, rfl⟩ := h.agentRun_ack hg (m + 1)
  have hstep := engineStep_pushNext hg1 h.seq h.pushk rfl h.args h.written hlt
  exact ⟨_, hack.trans (agentRun_succ_step hg1 (by simp) hstep), steppedTo_engine_self _ hg1,
    (steppedTo_history_waiting s1 e rfl).trans (congrArg _ hhist)⟩

/-- Two moves end the WRITE after its last push. -/
theorem AwaitsSink.agentRun_last (h : AwaitsSink e ox oy n k g) (hg : s.engine e = some g)
    (hlast : k.val + 1 = 1024) (m : Nat) : ∃ s', agentRun takesAll (m + 2) s e = agentRun takesAll m s' e ∧
      s'.engine e = some (writeFinished g) ∧ s'.history = .response e .ack :: s.history := by
  obtain ⟨s1, g1, hack, hg1, hhist, rfl⟩ := h.agentRun_ack hg (m + 1)
  have hstep := engineStep_pushLast hg1 h.seq h.pushk rfl (by omega)
  refine ⟨_, hack.trans (agentRun_succ_step hg1 (by simp) hstep), ?_, hhist⟩
  obtain rfl : k = 1023 := Fin.ext (Nat.succ.inj hlast)
  rw [State.engine_setEngine_self s1 e _ _ hg1, writeFinished, ← h.pushk]
  rfl

end

/-- From the wait for push k, two moves a push take the WRITE to its end, with the later pushes its only requests. -/
theorem AwaitsSink.agentRun_end {e : Nat} {ox oy : Word} {n : Nat} (left : Nat) {s : State} {k : Fin 1024} {g : Engine}
    (h : AwaitsSink e ox oy n k g) (hg : s.engine e = some g) (hleft : k.val + (left + 1) = 1024) :
    ∃ s' since, agentRun takesAll (2 * (left + 1)) s e = some s' ∧ s'.engine e = some (writeFinished g) ∧
      s'.history = since ++ s.history ∧
      requestsOf e since = ((List.finRange 1024).drop (k.val + 1)).map (pushRequest e ox oy n g.color) := by
  induction left generalizing s k g with
  | zero =>
    obtain ⟨s', hrun, hg', hhist⟩ := h.agentRun_last hg hleft 0
    refine ⟨s', [.response e .ack], hrun, hg', hhist, ?_⟩
    rw [requestsOf_response, List.drop_of_length_le (by simp; omega)]
    rfl
  | succ left ih =>
    have hlt : k.val + 1 < 1024 := by omega
    obtain ⟨s1, hrun, hg1, hhist⟩ := h.agentRun_next hg hlt (2 * (left + 1))
    have hnext : AwaitsSink e ox oy n ⟨k.val + 1, hlt⟩ (pushIssued e ox oy n ⟨k.val + 1, hlt⟩ g) :=
      ⟨rfl, rfl, h.args, rfl, h.written⟩
    obtain ⟨s', since, hrun', hg', hhist', hreq⟩ := ih hnext hg1 (by simp only; omega)
    refine ⟨s', since ++ [.request e (pushRequest e ox oy n g.color ⟨k.val + 1, hlt⟩), .response e .ack],
      hrun.trans hrun', hg', ?_, ?_⟩
    · rw [hhist', hhist, List.append_assoc]
      rfl
    · rw [requestsOf_append_answered, hreq]
      exact (map_drop_finRange _ ⟨k.val + 1, hlt⟩).symm

/-- An accepted WRITE waits for the sink to take push 0, its one request so far. -/
theorem write_awaitsSink {s : State} {g : Engine} (hg : s.engine s.target = some g) (hf : g.fault = false)
    (hb : g.busy = false) (hl : g.locked = false) (hx : g.isValid .originX = true) (hy : g.isValid .originY = true)
    (hi : g.init = true) (hox : (g.param .originX).toNat ≤ maxOrigin) (hoy : (g.param .originY).toNat ≤ maxOrigin)
    (hw : allWritten g.color) : ∃ s1 g1, exec .write s = .next s1 ∧ s1.engine s.target = some g1 ∧
      AwaitsSink s.target (g.param .originX) (g.param .originY) g.writeDraws 0 g1 ∧
      g1.depth = g.depth ∧ g1.color = g.color ∧ g1.init = g.init ∧ g1.fault = g.fault ∧
      s1.history = .request s.target (pushRequest s.target (g.param .originX) (g.param .originY) g.writeDraws g.color 0)
        :: s.history := by
  obtain ⟨snap, p, hargs, ⟨hp, hexec⟩, -⟩ := writeAccepted s g hg hf hb hl hx hy hi hox hoy hw
  have hpixel := congrArg (Option.getD · 0) hp
  obtain rfl : _ = p := hpixel
  exact ⟨_, _, hexec, State.engine_setEngine_self s s.target g _ hg, ⟨rfl, rfl, hargs, rfl, hw⟩, rfl, rfl, rfl, rfl,
    rfl⟩

/-- Settles O28. -/
theorem writeWhole : Obligations.WriteWhole := by
  intro s g hg hf hb hl hx hy hi hox hoy hw
  refine ⟨fun t i => existsUnique_writeOrder _ (t, i), ?_⟩
  obtain ⟨s1, g1, hexec, hg1, hwait, hdepth, hcolor, hinit, hfault, hhist⟩ :=
    write_awaitsSink hg hf hb hl hx hy hi hox hoy hw
  obtain ⟨s2, since, hrun, hg2, hhist2, hreq⟩ := hwait.agentRun_end 1023 hg1 rfl
  refine ⟨s1, s2, _, since ++ [_], hexec, hrun, hg2, rfl, rfl, hdepth, hcolor, hinit.trans hi, hfault.trans hf,
    by rw [hhist2, hhist, List.append_assoc]; rfl, ?_⟩
  have hall := map_drop_finRange (pushRequest s.target (g.param .originX) (g.param .originY) g.writeDraws g.color) 0
  rw [requestsOf_append_request, hreq, hcolor, ← hall, Fin.val_zero, List.drop_zero]
  rfl

end Sys2Proof.Machine
end

section
/-! MAP's engine step and a whole MAP (42_tile R171, R172, 44_commands R230, R231). -/
namespace Sys2Proof.Machine

/-! ## One step -/

/-- MAP has a next lane before its last one (44_commands R231). -/
theorem exists_laneAfter {t : Tile} {i : Lane} (h : (numberOfLane t i).val + 1 < 1024) :
    ∃ t' i', laneAfter t i = some (t', i') := by
  cases hn : laneAfter t i with
  | none =>
    obtain ⟨rfl, rfl⟩ := laneAfter_eq_none hn
    have hlast : (numberOfLane 15 63).val + 1 = 1024 := rfl
    omega
  | some x => exact ⟨x.1, x.2, rfl⟩

/-- The lane whose number is the next one is MAP's next lane. -/
theorem laneAfter_of_number {t t' : Tile} {i i' : Lane}
    (h : (numberOfLane t' i').val = (numberOfLane t i).val + 1) : laneAfter t i = some (t', i') := by
  obtain ⟨t1, i1, hn⟩ := exists_laneAfter (t := t) (i := i) (h ▸ (numberOfLane t' i').isLt)
  obtain ⟨rfl, rfl⟩ := number_inj ((laneAfter_some hn).trans h.symm)
  exact hn

section
variable {s : State} {d src : Nat} {g a : Engine} {t t' : Tile} {i i' : Lane} {m : Word} {p : Pixel}

/-- A MAP step before the last lane. -/
theorem engineStep_mapNext (hg : s.engine d = some g) (ha : s.engine src = some a) (hseq : g.seq = .mMap t i)
    (hargs : g.snap.mapArgs = some (m, src)) (hp : readLane a.color t i = some p)
    (hnext : laneAfter t i = some (t', i')) : engineStep s d =
      some (.next (s.setEngine d { mapWritten (s.cfg.pixelBits d) m p t i g with seq := .mMap t' i' })) := by
  rw [engineStep_map hg hseq, mapStep_eq_next.mpr ⟨m, src, a, p, hargs, ha, hp, .inl ⟨t', i', hnext, rfl⟩⟩]

/-- MAP's step at the last lane ends the command and unlocks the source. -/
theorem engineStep_mapEnd (hg : s.engine d = some g) (ha : s.engine src = some a) (hne : src ≠ d)
    (hseq : g.seq = .mMap 15 63) (hargs : g.snap.mapArgs = some (m, src)) (hp : readLane a.color 15 63 = some p) :
    engineStep s d = some (.next
      ((s.setEngine d (mapWritten (s.cfg.pixelBits d) m p 15 63 g).finish).setEngine src a.unlock)) := by
  rw [engineStep_map hg hseq, mapStep_eq_next.mpr ⟨m, src, a, p, hargs, ha, hp, .inr ⟨rfl, rfl⟩⟩,
    modify_source_eq _ hne ha]

end

/-- Settles O30. -/
theorem Map.mapStep : Obligations.MapStep := by
  intro s d src g a t i m p hg ha hne hseq hargs hp
  refine ⟨writeLane g.color t i (mapPixel (s.cfg.pixelBits d) m p), ?_, fun t' i' hother => ?_, fun t' i' hnum => ?_, ?_⟩
  · rw [readLane_writeLane, if_pos ⟨rfl, rfl⟩]
    rfl
  · rw [readLane_writeLane, if_neg fun h => hother (Prod.ext h.1.symm h.2.symm)]
  · exact engineStep_mapNext hg ha hseq hargs hp (laneAfter_of_number hnum)
  · rintro rfl rfl
    exact engineStep_mapEnd hg ha hne hseq hargs hp

/-! ## The whole MAP -/

/-- With the lanes before the last mapped, writing the last maps the whole buffer (42_tile R171). -/
theorem mapped_of_last {pb : Nat} {m : Word} {source dest : Buffer Pixel} {p : Pixel}
    (h : mappedBefore pb m source dest 15 63) (hp : readLane source 15 63 = some p) (t : Tile) (i : Lane) :
    readLane (writeLane dest 15 63 (mapPixel pb m p)) t i = (readLane source t i).map (mapPixel pb m) := by
  rw [readLane_writeLane]
  split
  · rename_i heq
    obtain ⟨rfl, rfl⟩ := heq
    rw [hp]
    rfl
  · rename_i hne
    have hne' : (numberOfLane 15 63).val ≠ (numberOfLane t i).val := fun hc => hne (number_inj hc)
    exact h t i (lt_of_le_of_ne (Fin.le_last _) (Fin.val_ne_iff.mp hne'.symm))

/-- Engine `g`, as its MAP was accepted with the snapshot, at lane i of tile t with its COLOR as written so far. -/
def mapRunning (g : Engine) (snap : Snapshot) (color : Buffer Pixel) (t : Tile) (i : Lane) : Engine :=
  { g with
    color := color, busy := true, seq := .mMap t i, snap := snap, tr := .unwritten, port := .quiet }

/-- The system while engine d, now `g`, maps the COLOR of its source, which was `a` before it was LOCKED. -/
def duringMap (s : State) (d src : Nat) (g a : Engine) : State := (s.setEngine d g).setEngine src a.lock

/-- Replacing the destination again leaves the source as it was replaced. -/
theorem setTwo_setEngine {s : State} {d src : Nat} {x y : Engine} (hne : src ≠ d) (z : Engine) :
    ((s.setEngine d x).setEngine src y).setEngine d z = (s.setEngine d z).setEngine src y := by
  simp [State.setEngine, List.set_comm y z hne]

section
variable {s : State} {d src : Nat} {g a : Engine} {snap : Snapshot} {m : Word}

/-- A MAP's state at lane i of tile t, in which the lanes before are mapped, runs to the command's end, a step a lane. -/
theorem engineRun_map (hg : s.engine d = some g) (ha : s.engine src = some a) (hne : src ≠ d)
    (hw : allWritten a.color) (hargs : snap.mapArgs = some (m, src)) (left : Nat) {t : Tile} {i : Lane}
    {color : Buffer Pixel} (hmapped : mappedBefore (s.cfg.pixelBits d) m a.color color t i)
    (hleft : (numberOfLane t i).val + (left + 1) = 1024) :
    ∃ color', engineRun (left + 1) (duringMap s d src (mapRunning g snap color t i) a) d =
        some ((s.setEngine d (mapRunning g snap color' 15 63).finish).setEngine src a.unlock) ∧
      ∀ t i, readLane color' t i = (readLane a.color t i).map (mapPixel (s.cfg.pixelBits d) m) := by
  induction left generalizing t i color with
  | zero =>
    obtain ⟨rfl, rfl⟩ : t = 15 ∧ i = 63 := number_inj (Nat.succ.inj hleft)
    obtain ⟨p, hp⟩ := Option.isSome_iff_exists.mp (hw 15 63)
    have hstep := engineStep_mapEnd (s := duringMap s d src (mapRunning g snap color 15 63) a)
      (engine_setTwo_dest hg hne) (engine_setTwo_source ha hne) hne rfl hargs hp
    refine ⟨_, ?_, mapped_of_last hmapped hp⟩
    rw [engineRun, hstep, duringMap, setTwo_setEngine hne, State.setEngine_setEngine]
    rfl
  | succ left ih =>
    obtain ⟨p, hp⟩ := Option.isSome_iff_exists.mp (hw t i)
    obtain ⟨t', i', hn⟩ := exists_laneAfter (t := t) (i := i) (by omega)
    have hnum := laneAfter_some hn
    have hstep := engineStep_mapNext (s := duringMap s d src (mapRunning g snap color t i) a)
      (engine_setTwo_dest hg hne) (engine_setTwo_source ha hne) rfl hargs hp hn
    obtain ⟨color', hrun, hall⟩ := ih (mappedBefore_next hmapped hp hn) (by omega)
    refine ⟨color', ?_, hall⟩
    rw [engineRun, hstep, duringMap, setTwo_setEngine hne]
    exact hrun

end

/-- Settles O31. -/
theorem mapWhole : Obligations.MapWhole := by
  intro s src g a hg ha hlt hle hne hf hb hl hv hi hai hab hal hw hsig
  obtain ⟨snap, hargs, hexec, -⟩ := mapAccepted s src g a hg ha hlt hle hne hf hb hl hv hi hai hab hal hsig
  have hstart : mappedBefore (s.cfg.pixelBits s.target) (g.param .mapId) a.color g.color 0 0 := fun t i h =>
    absurd (Fin.lt_def.mp h) (Nat.not_lt_zero _)
  obtain ⟨color, hrun, hall⟩ := engineRun_map hg ha hne hw hargs 1023 hstart rfl
  have hsource : a.unlock = a := by rw [Engine.unlock, ← hal]
  refine ⟨_, _, _, hexec, hrun, engine_setTwo_dest hg hne, rfl, rfl, rfl, hi, rfl, rfl, hf, rfl, hl, hall, ?_,
    fun e hd hs => engine_setTwo_other hd hs, rfl⟩
  rw [engine_setTwo_source ha hne, hsource]

end Sys2Proof.Machine
end

section
/-! RASTER's tile positions: one lemma per coordinate of one Quad level, and the two levels composed
(43_quad_group R192). -/
namespace Sys2Proof.Machine

/-- One Quad level moves the position by a child's offset: bit 0 of the child's number says whether the rounded extent
or +0.0 is added to x (43_quad_group R192). -/
theorem childPosition_extent_x (m n : DrawId) (pos scale : Point) (k : Fin 4) (size : Binary32) :
    (childPosition m pos k (childExtent n scale size)).x =
      fadd m pos.x (if k.val % 2 = 1 then fmul n scale.x size else 0) := rfl

/-- Bit 1 of the child's number says the same of y; each coordinate has draws of its own. -/
theorem childPosition_extent_y (m n : DrawId) (pos scale : Point) (k : Fin 4) (size : Binary32) :
    (childPosition m pos k (childExtent n scale size)).y =
      fadd (m.plus 1) pos.y (if k.val / 2 = 1 then fmul (n.plus 1) scale.y size else 0) := rfl

/-- The inner level, of 8-pixel children, starts from the position the outer one, of 16-pixel children, arrived at. -/
theorem tilePosition_eq_levels (n : DrawId) (pos scale : Point) (t : Tile) :
    tilePosition n pos scale t =
      childPosition (n.plus 6)
        (childPosition (n.plus 4) pos (outerChild t) (childExtent n scale 0x41800000))
        (innerChild t) (childExtent (n.plus 2) scale 0x41000000) := rfl

/-- Settles O47: the draws are the model's own, the four products' first and the four sums' after them. -/
theorem tilePlacement : Obligations.TilePlacement := by
  intro n pos scale t
  refine ⟨n, n.plus 1, n.plus 2, (n.plus 2).plus 1,
    n.plus 4, (n.plus 4).plus 1, n.plus 6, (n.plus 6).plus 1, ?_, ?_⟩
  · rw [tilePosition_eq_levels, childPosition_extent_x, childPosition_extent_x, outerChild, innerChild]
  · rw [tilePosition_eq_levels, childPosition_extent_y, childPosition_extent_y, outerChild, innerChild]

end Sys2Proof.Machine
end

section
/-! What the ports promise: one transaction at a time, and the evaluator's obligations as hypotheses
(45_interfaces R250, R253). -/
namespace Sys2Proof.Machine

/-! ## One transaction at a time (R250) -/

/-- A good engine has a request outstanding only at a phase whose step takes that request's response, so it has no step
of its own before the response comes: at IDLE, CLR, R_COVER, R_DEPTH and M_MAP the port is quiet. -/
theorem engineStep_of_waiting {s : State} {e : Nat} {g : Engine} {r : Request} (hg : s.engine e = some g)
    (ok : EngineOk (s.cfg.pixelBits e) e g) (hp : g.port = .waiting r) : engineStep s e = none := by
  have hphase := ok.phase
  have hlocal (hm : ∀ t i, g.seq ≠ .mMap t i) (hl : localStep (s.cfg.pixelBits e) e g = none) :
      engineStep s e = none := by
    rw [engineStep_local hg hm, hl, Option.map_none]
  cases hs : g.seq with
  | idle | clr | rCover | rDepth | mMap => simp [phaseOk, hs, hp] at hphase
  | rEval => exact hlocal (by simp [hs]) (by simp [localStep, hs, hp, PortState.evalAnswer])
  | rInterp => exact hlocal (by simp [hs]) (by simp [localStep, hs, hp, PortState.interpAnswer])
  | rFrag => exact hlocal (by simp [hs]) (by simp [localStep, hs, hp, PortState.fragAnswer])
  | rBlend => exact hlocal (by simp [hs]) (by simp [localStep, hs, hp, PortState.blendAnswer])
  | wPush => exact hlocal (by simp [hs]) (by simp [localStep, hs, hp, PortState.pushTaken])

/-- An answer that no outstanding request of its type awaits reaches no engine. -/
theorem answer_unawaited {s : State} {e : Nat} {g : Engine} {a : Response} (hg : s.engine e = some g)
    (h : ∀ r, g.port = .waiting r → answers r a = false) : s.answer e a = s := by
  obtain hsame | ⟨g', r, hg', hp, ha, -⟩ := answer_cases s e a
  · exact hsame
  · obtain rfl := Option.some.inj (hg.symm.trans hg')
    exact absurd ha (by simp [h r hp])

/-- Settles O32. -/
theorem portProtocol : Obligations.PortProtocol := by
  intro s e g hg ok
  refine ⟨fun r hp => ⟨engineStep_of_waiting hg ok hp, fun a => ⟨answer_waiting hg hp, fun ha => ?_⟩⟩, fun hp a => ?_⟩
  · refine answer_unawaited hg fun r' hp' => ?_
    obtain rfl := PortState.waiting.inj (hp.symm.trans hp')
    exact ha
  · exact answer_unawaited hg fun r hr => absurd hr (hp r)

/-! ## The evaluator's obligations (R253) -/

/-- A depth test only takes lanes out of MASK (41_tilemask R138). -/
theorem mask_of_depthMask {n : DrawId} {mask : Mask} {old z : Grid} {i : Lane}
    (h : (depthMask n mask old z).getLsbD i = true) : mask.getLsbD i = true :=
  ((depthMask_getLsbD_iff n mask old z i).mp h).1

/-- Masks with no lane in common have none in common after any depth tests. -/
theorem depthMask_disjoint {m m' : Mask} (h : m &&& m' = 0) (k k' : DrawId) (old z old' z' : Grid) :
    depthMask k m old z &&& depthMask k' m' old' z' = 0 := by
  rw [mask_eq_zero_iff] at h ⊢
  intro i
  by_contra hboth
  simp only [Bool.not_eq_false, BitVec.getLsbD_and, Bool.and_eq_true] at hboth
  obtain ⟨hleft, hright⟩ := hboth
  have hcommon : (m &&& m').getLsbD i = true := by
    rw [BitVec.getLsbD_and, mask_of_depthMask hleft, mask_of_depthMask hright, Bool.and_self]
  exact Bool.false_ne_true ((h i).symm.trans hcommon)

/-- Settles O20: its first part is R132's zero mask, at the weight COVER computes. -/
theorem evaluatorContract : Obligations.EvaluatorContract := by
  refine ⟨fun n u v => ?_, fun n n' k k' u v u' v' old z old' z' hdisjoint =>
    depthMask_disjoint hdisjoint k k' old z old' z'⟩
  obtain ⟨-, hmask⟩ := coverLanes
  obtain ⟨-, hzero⟩ := hmask (coverW n u v) u v
  exact hzero.symm

end Sys2Proof.Machine
end

section
/-! The acceptance procedure line by line, and faults: a drop is precise, FAULT is sticky, and no run meets a model
fault (60_exceptions R276 to R278, R284). -/
namespace Sys2Proof.Machine

/-! ## The checks of a command word (60_exceptions R276) -/

/-- The lines of R276 after BUSY and LOCKED, for what the word presented to the target engine decodes to. -/
def wordChecks (s : State) : Except Illegal Instr → Engine → List (Bool × ErrCode)
  | .ok .clear => checksClear (s.cfg.pixelBits s.target)
  | .ok .raster => checksRaster
  | .ok .write => checksWrite
  | .ok (.map src) => checksMap s src
  | .error _ => fun _ => [(true, .illegal)]

/-- Every word is presented through its own checks. -/
theorem presentWord_eq_presentTo (s : State) (e : Nat) (w : Word) :
    ∃ accept, presentWord s e w =
      presentTo { s with target := e } (wordChecks { s with target := e } (decode w)) accept := by
  unfold presentWord
  cases decode w with
  | error r => exact ⟨_, rfl⟩
  | ok i => cases i <;> exact ⟨_, rfl⟩

/-- An engine whose FAULT is 1 drops every word silently (60_exceptions R277). -/
theorem presentWord_of_fault {s : State} {e : Nat} {g : Engine} (hg : s.engine e = some g) (hf : g.fault = true)
    (w : Word) : presentWord s e w = .next { s with target := e } := by
  obtain ⟨accept, hp⟩ := presentWord_eq_presentTo s e w
  rw [hp]
  simp [presentTo, hg, hf]

/-- The first line that holds drops the word with its code (60_exceptions R275). -/
theorem presentWord_of_failing {s : State} {e : Nat} {g : Engine} {w : Word} {c : ErrCode} (hg : s.engine e = some g)
    (hf : g.fault = false)
    (hc : firstFailing ((g.occupied, .busy) :: wordChecks { s with target := e } (decode w) g) = some c) :
    presentWord s e w = .next (State.raise { s with target := e } e g c) := by
  obtain ⟨accept, hp⟩ := presentWord_eq_presentTo s e w
  rw [hp]
  simp [presentTo, hg, hf, hc]

/-- A command whose checks all pass is accepted. -/
theorem exec_accepts {s : State} {g : Engine} {i : Instr} (h : Inv s) (hg : s.engine s.target = some g)
    (hpass : passes g (wordChecks s (.ok i) g)) : ∃ s', exec i s = .next s' ∧ Accepted s g i s' := by
  have ok := h.each _ _ hg
  have ⟨_, _, _, hc⟩ := hpass
  cases i with
  | clear => exact ⟨_, presentTo_accept hg hpass, .clear⟩
  | raster =>
    have hi : g.init = true := by simpa using hc (!g.init, .uninit) (by simp [wordChecks, checksRaster])
    obtain ⟨g', hs, -⟩ := startRaster_ok ok hi
    exact ⟨_, (presentTo_accept hg hpass).trans (by rw [hs, commit_ok]), .raster hi hs⟩
  | write =>
    have hi : g.init = true := by simpa using hc (!g.init, .uninit) (by simp [wordChecks, checksWrite])
    obtain ⟨g', hs, -⟩ := startWrite_ok ok hi
    exact ⟨_, (presentTo_accept hg hpass).trans (by rw [hs, commit_ok]), .write hi hs⟩
  | map src =>
    have hbad := hc (decide (s.cfg.numEngines ≤ src) || decide (src = s.target), .badGroup)
      (by simp [wordChecks, checksMap])
    simp only [Bool.or_eq_false_iff, decide_eq_false_iff_not, not_le] at hbad
    obtain ⟨a, ha⟩ := h.engine_exists hbad.1
    obtain ⟨hlt, hne, -, hi, hai, hsig, hab, hal⟩ := (checksMap_pass ha).mp hc
    refine ⟨_, (presentTo_accept hg hpass).trans ?_, .map hlt hne ha hi hai hsig hab hal⟩
    simp only [ha]
    rw [modify_source_eq _ hne ha]

/-- The engine that accepted command `i`: BUSY, at its first phase, with the registers it uses snapshotted. -/
structure Entered (pixelBits : Nat) (i : Instr) (g g' : Engine) : Prop where
  busy : g'.busy = true
  seq : g'.seq = firstPhase i
  snap : ∀ r ∈ usesOf pixelBits i, g'.snap.reg r = some (g.param r)

theorem startClear_entered (pixelBits : Nat) (g : Engine) : Entered pixelBits .clear g (startClear pixelBits g) :=
  ⟨rfl, rfl, fun r hr => capture_reg g _ none none r hr⟩

theorem startRaster_entered {pixelBits e : Nat} {g g' : Engine} (h : startRaster e g = .ok g') :
    Entered pixelBits .raster g g' := by
  obtain ⟨a, -, rfl⟩ := (enterTile_eq_ok ..).mp h
  exact ⟨rfl, rfl, fun r hr => capture_reg g usesRaster none none r hr⟩

theorem startWrite_entered {pixelBits e : Nat} {g g' : Engine} (h : startWrite e g = .ok g') :
    Entered pixelBits .write g g' := by
  obtain ⟨ox, oy, n, p, -, -, rfl⟩ := (issuePush_eq_ok ..).mp h
  exact ⟨rfl, rfl, fun r hr => capture_reg g usesWrite none _ r hr⟩

theorem startMap_entered (pixelBits src : Nat) (g : Engine) : Entered pixelBits (.map src) g (startMap src g) :=
  ⟨rfl, rfl, fun r hr => capture_reg g usesMap _ none r hr⟩

/-- An acceptance enters the command on the target engine, and a MAP's locks its source. -/
theorem Accepted.entered {s s' : State} {g : Engine} {i : Instr} (h : Accepted s g i s')
    (hg : s.engine s.target = some g) :
    (∃ g', s'.engine s.target = some g' ∧ Entered (s.cfg.pixelBits s.target) i g g') ∧
      ∀ src, i = .map src → ∃ a, s'.engine src = some a ∧ a.locked = true := by
  cases h with
  | clear => exact ⟨⟨_, State.engine_setEngine_self _ _ _ _ hg, startClear_entered _ g⟩, by simp⟩
  | raster _ hs =>
    exact ⟨⟨_, by rw [steppedTo_engine, State.engine_setEngine_self _ _ _ _ hg], startRaster_entered hs⟩, by simp⟩
  | write _ hs =>
    exact ⟨⟨_, by rw [steppedTo_engine, State.engine_setEngine_self _ _ _ _ hg], startWrite_entered hs⟩, by simp⟩
  | @map src a _ hne ha =>
    refine ⟨⟨_, engine_setTwo_dest hg hne, startMap_entered _ src g⟩, ?_⟩
    rintro _ ⟨rfl⟩
    exact ⟨_, engine_setTwo_source ha hne, rfl⟩

/-! ## The procedure (60_exceptions R276) -/

/-- How a presentation ends on an engine whose FAULT is 0, by its first line that holds. -/
def verdictOf (i : Instr) : Option ErrCode → Verdict
  | some c => .dropped c.bits
  | none => .accepted i

/-- A list of checks is read as lines of R276. -/
theorem verdictOf_firstFailing_cons (i : Instr) (b : Bool) (c : ErrCode) (l : List (Bool × ErrCode)) :
    verdictOf i (firstFailing ((b, c) :: l)) = if b = true then .dropped c.bits else verdictOf i (firstFailing l) := by
  cases b <;> rfl

theorem occupied_iff (g : Engine) : g.occupied = true ↔ g.busy = true ∨ g.locked = true := by
  rw [Engine.occupied, Bool.or_eq_true]

theorem someUnset_eq (g : Engine) (uses : List Param) : g.someUnset uses = !g.allValid uses := by
  rw [Engine.someUnset, Engine.allValid, List.not_all_eq_any_not]

theorem originOk_eq_false_iff (g : Engine) :
    g.originOk = false ↔ 0xFFFFFFE0 < (g.param .originX).toNat ∨ 0xFFFFFFE0 < (g.param .originY).toNat := by
  rw [Engine.originOk, Bool.and_eq_false_iff, decide_eq_false_iff_not, decide_eq_false_iff_not, not_le, not_le,
    maxOrigin]

/-- MAP's lines of R276 are its checks in their order. -/
theorem mapVerdict_eq {s : State} {src : Nat} {g : Engine} (h : Inv s) :
    mapVerdict s s.target src g = verdictOf (.map src) (firstFailing (checksMap s src g)) := by
  simp only [mapVerdict, checksMap, verdictOf_firstFailing_cons, Bool.or_eq_true, decide_eq_true_eq]
  refine ite_congr rfl (fun _ => rfl) fun hbad => ?_
  obtain ⟨a, ha⟩ := h.engine_exists (not_le.mp (not_or.mp hbad).1)
  simp only [sourceIs, ha, occupied_iff, Bool.not_eq_true', someUnset_eq, usesMap]
  rfl

/-- R276's lines are the checks in their order, on an engine whose FAULT is 0. -/
theorem verdict_eq {s : State} {e : Nat} {g : Engine} {w : Word} {i : Instr} (h : Inv s) (hf : g.fault = false)
    (hd : decode w = .ok i) : verdict s e g w =
      verdictOf i (firstFailing ((g.occupied, .busy) :: wordChecks { s with target := e } (.ok i) g)) := by
  have ht : Inv { s with target := e } := SameSystem.inv (s := s) ⟨rfl, rfl, rfl⟩ h
  simp only [verdict, hf, Bool.false_eq_true, if_false, hd, ← occupied_iff, verdictOf_firstFailing_cons, wordChecks]
  refine ite_congr rfl (fun _ => rfl) fun _ => ?_
  cases i with
  | clear =>
    simp only [checksClear, verdictOf_firstFailing_cons, someUnset_eq]
    rfl
  | raster =>
    simp only [checksRaster, verdictOf_firstFailing_cons, someUnset_eq, Bool.not_eq_true']
    rfl
  | write =>
    simp only [checksWrite, verdictOf_firstFailing_cons, someUnset_eq, Bool.not_eq_true', originOk_eq_false_iff]
    rfl
  | map src => exact mapVerdict_eq ht

/-- R276's lines for a word that does not decode, on an engine whose FAULT is 0. -/
theorem verdict_eq_of_error {s : State} {e : Nat} {g : Engine} {w : Word} {r : Illegal} (hf : g.fault = false)
    (hd : decode w = .error r) : ∃ c : ErrCode, verdict s e g w = .dropped c.bits ∧
      firstFailing ((g.occupied, .busy) :: wordChecks { s with target := e } (.error r) g) = some c := by
  simp only [verdict, hf, Bool.false_eq_true, if_false, hd, ← occupied_iff]
  cases g.occupied with
  | true => exact ⟨.busy, rfl, rfl⟩
  | false => exact ⟨.illegal, rfl, rfl⟩

/-- Settles O7. -/
theorem acceptanceProcedure : Obligations.AcceptanceProcedure := by
  intro s e w g h hg
  have ht : Inv { s with target := e } := SameSystem.inv (s := s) ⟨rfl, rfl, rfl⟩ h
  cases hf : g.fault with
  | true =>
    rw [show verdict s e g w = .silent by simp [verdict, hf]]
    exact presentWord_of_fault hg hf w
  | false =>
    cases hd : decode w with
    | error r =>
      obtain ⟨c, hv, hc⟩ := verdict_eq_of_error (s := s) (e := e) hf hd
      rw [hv]
      exact presentWord_of_failing hg hf (hd ▸ hc)
    | ok i =>
      rw [verdict_eq h hf hd]
      cases hc : firstFailing ((g.occupied, .busy) :: wordChecks { s with target := e } (.ok i) g) with
      | some c => exact presentWord_of_failing hg hf (hd ▸ hc)
      | none =>
        obtain ⟨s', hexec, hacc⟩ := exec_accepts (s := { s with target := e }) ht hg
          ⟨hf, (firstFailing_occupied_eq_none g _).mp hc⟩
        obtain ⟨⟨g', hg', hent⟩, hsrc⟩ := hacc.entered hg
        exact ⟨s', g', by rw [presentWord, hd]; exact hexec, hg', hent.busy, hent.seq, hent.snap, hsrc⟩

/-! ## A drop is precise (60_exceptions R278) -/

/-- Writing the two fault fields, as a change of the fields that no engine's step reads. -/
def HostUpdate.faulting (code : BitVec 4) : HostUpdate := ⟨id, id, fun _ => true, fun _ => code⟩

theorem raise_eq_hostUpdate {s : State} {e : Nat} {g : Engine} (hg : s.engine e = some g) (c : ErrCode) :
    s.raise e g c = s.modifyEngine e (HostUpdate.faulting c.bits).apply :=
  (modify_eq_set hg (HostUpdate.faulting c.bits).apply).symm

/-- An agent's answer commutes with every change of the host's fields. -/
theorem answer_hostUpdate (s : State) (u : HostUpdate) (e d : Nat) (a : Response) :
    (s.modifyEngine e u.apply).answer d a = (s.answer d a).modifyEngine e u.apply := by
  unfold State.answer
  rw [State.engine_hostUpdate]
  cases s.engine d with
  | none => rfl
  | some g =>
    simp only [Option.map_some, HostUpdate.apply_port]
    cases g.port with
    | quiet | answered => rfl
    | waiting r =>
      simp only
      split
      · exact congrArg (State.log · _) (State.setEngine_hostUpdate s u e d { g with port := .answered r _ })
      · rfl

/-- A system with as many engines holds the same ones. -/
theorem engine_of_length_eq {s s' : State} {e : Nat} {g : Engine} (hlen : s'.engines.length = s.engines.length)
    (hg : s.engine e = some g) : ∃ g', s'.engine e = some g' :=
  ⟨_, List.getElem?_eq_getElem (hlen ▸ s.length_engines_of_engine e g hg)⟩

theorem answer_length (s : State) (d : Nat) (a : Response) : (s.answer d a).engines.length = s.engines.length := by
  obtain hs | ⟨g, r, -, -, -, hs⟩ := answer_cases s d a <;> simp [hs]

/-- Settles O9: a drop is a change of the host's fields, which engine steps and answers neither read nor write. -/
theorem dropIsPrecise : Obligations.DropIsPrecise := by
  intro s e g c hg
  refine ⟨rfl, fun e' hne => State.engine_setEngine_ne _ _ _ _ hne.symm, fun d s1 h => ?_, fun d a => ?_⟩
  · obtain ⟨g1, hg1⟩ := engine_of_length_eq (engineStep_system h).2.1 hg
    exact ⟨g1, hg1, by rw [raise_eq_hostUpdate hg, raise_eq_hostUpdate hg1, engineStep_hostUpdate _ e h]⟩
  · obtain ⟨g1, hg1⟩ := engine_of_length_eq (answer_length s d a) hg
    exact ⟨g1, hg1, by rw [raise_eq_hostUpdate hg, raise_eq_hostUpdate hg1, answer_hostUpdate]⟩

/-! ## FAULT is sticky (60_exceptions R277) -/

/-- Engine `e`, if the state holds it, has FAULT 1 with this code. -/
def faultedWith (s : State) (e : Nat) (code : BitVec 4) : Prop :=
  ∀ g, s.engine e = some g → g.fault = true ∧ g.code = code

theorem HostUpdate.faulting_apply {g : Engine} (hf : g.fault = true) : (HostUpdate.faulting g.code).apply g = g := by
  obtain ⟨⟩ := g
  obtain rfl := hf
  rfl

/-- Replacing an engine by itself changes nothing. -/
theorem State.setEngine_same {s : State} {e : Nat} {g : Engine} (hg : s.engine e = some g) : s.setEngine e g = s := by
  obtain ⟨hlt, rfl⟩ := List.getElem?_eq_some_iff.mp hg
  rw [State.setEngine, List.set_getElem_self]

/-- FAULT is 1 with a code exactly when writing the two fields so changes nothing. -/
theorem faultedWith_iff (s : State) (e : Nat) (code : BitVec 4) :
    faultedWith s e code ↔ s.modifyEngine e (HostUpdate.faulting code).apply = s := by
  cases hg : s.engine e with
  | none => simp [faultedWith, hg, modify_none hg]
  | some g =>
    simp only [faultedWith, hg, Option.some.injEq, forall_eq']
    constructor
    · rintro ⟨hf, rfl⟩
      rw [modify_eq_set hg, HostUpdate.faulting_apply hf, State.setEngine_same hg]
    · intro hfix
      have hself := State.engine_modifyEngine_self s e (HostUpdate.faulting code).apply
      rw [hfix, hg, Option.map_some, Option.some.injEq] at hself
      rw [hself]
      exact ⟨rfl, rfl⟩

section
variable {s s' : State} {e d : Nat} {code : BitVec 4}

theorem SameSystem.faultedWith (h : SameSystem s s') (hf : faultedWith s e code) : faultedWith s' e code :=
  fun g hg => hf g (h.engine e ▸ hg)

/-- An engine's step commutes with writing the two fault fields, so it keeps what that write leaves unchanged. -/
theorem engineStep_faultedWith (h : engineStep s d = some (.next s')) (hf : faultedWith s e code) :
    faultedWith s' e code := by
  rw [faultedWith_iff] at hf ⊢
  have hcomm := engineStep_hostUpdate (HostUpdate.faulting code) e h
  rw [hf, h] at hcomm
  exact (Host.Outcome.next.inj (Option.some.inj hcomm)).symm

theorem answer_faultedWith (a : Response) (hf : faultedWith s e code) : faultedWith (s.answer d a) e code := by
  rw [faultedWith_iff] at hf ⊢
  rw [← answer_hostUpdate, hf]

/-- Another engine's command word can only lock this one. -/
theorem presentWord_faultedWith {w : Word} (h : presentWord s d w = .next s') (hf : faultedWith s e code) :
    faultedWith s' e code := by
  intro g' hg'
  by_cases hde : d = e
  · subst hde
    obtain ⟨g, hg, -⟩ := presentWord_eq_next h
    rw [presentWord_of_fault hg (hf g hg).1] at h
    obtain rfl := Host.Outcome.next.inj h
    exact hf g' hg'
  · obtain ⟨-, hword, -⟩ := enginesIndependent s s' d e (Ne.symm hde)
    obtain hsame | ⟨-, hlock⟩ := hword w h
    · exact hf g' (hsame ▸ hg')
    · rw [hlock] at hg'
      obtain ⟨g, hg, rfl⟩ := Option.map_eq_some_iff.mp hg'
      exact hf g hg

/-- A register write clears the fault fields only as this engine's acknowledge (60_exceptions R280). -/
theorem writeReg_faultedWith (off : Nat) (v : Word) (hf : faultedWith s e code) :
    faultedWith (writeReg s d off v) e code ∨ (d = e ∧ off = 8 ∧ v.getLsbD 0 = true) := by
  unfold writeReg
  cases paramAt off with
  | some r =>
    refine .inl fun g' hg' => ?_
    rw [State.engine_modifyEngine] at hg'
    split at hg'
    · obtain ⟨g, hg, rfl⟩ := Option.map_eq_some_iff.mp hg'
      exact hf g hg
    · exact hf g' hg'
  | none =>
    by_cases hack : off = 8 ∧ v.getLsbD 0 = true
    · by_cases hde : d = e
      · exact .inr ⟨hde, hack⟩
      · refine .inl fun g' hg' => hf g' ?_
        simpa [hack, State.acknowledge, hde] using hg'
    · exact .inl (by simpa only [if_neg hack] using hf)

theorem hostWrite_faultedWith {addr width : Nat} {v : Word} (h : hostWrite s addr width v = .next s')
    (hf : faultedWith s e code) : faultedWith s' e code ∨
      (width = 4 ∧ locate s.cfg addr = some (e, 8) ∧ v.getLsbD 0 = true) := by
  obtain ⟨d, off, hl, rfl, -, ha⟩ := hostAccess_eq_next h
  have hlog : faultedWith (s.log (.hostWrote d off v)) e code := hf
  split at ha
  · obtain rfl := Host.Outcome.next.inj ha
    exact .inl hlog
  · split at ha
    · exact .inl (presentWord_faultedWith ha hlog)
    · obtain rfl := Host.Outcome.next.inj ha
      refine (writeReg_faultedWith off v hlog).imp_right ?_
      rintro ⟨rfl, rfl, hv⟩
      exact ⟨rfl, hl, hv⟩

theorem runEngine_faultedWith (h : runEngine s d = .next s') (hf : faultedWith s e code) : faultedWith s' e code := by
  unfold runEngine at h
  split at h
  · exact Host.Outcome.next.inj h ▸ hf
  · cases hs : engineStep s d with
    | none => rw [hs] at h; exact Host.Outcome.next.inj h ▸ hf
    | some r =>
      obtain rfl : r = .next s' := by simpa [hs] using h
      exact engineStep_faultedWith hs hf

theorem drain_faultedWith (h : drain s = .next s') (hf : faultedWith s e code) : faultedWith s' e code := by
  unfold drain at h
  split at h
  · exact runEngine_faultedWith h hf
  · exact Host.Outcome.next.inj h ▸ hf

/-- Only an acknowledge of this engine and a reset can end its fault. -/
theorem applyEvent_faultedWith {ev : Event} (h : applyEvent s ev = .next s') (hf : faultedWith s e code) :
    faultedWith s' e code ∨ (∃ on, ev = .reset on) ∨
      ∃ addr v, ev = .hostWrite addr 4 v ∧ locate s.cfg addr = some (e, 8) ∧ v.getLsbD 0 = true := by
  cases ev with
  | hostWrite addr width v =>
    refine (hostWrite_faultedWith h hf).imp_right ?_
    rintro ⟨rfl, hl, hv⟩
    exact .inr ⟨addr, v, rfl, hl, hv⟩
  | hostRead addr width => exact .inl ((hostReadThen_same (fun _ _ hs => hs) h).faultedWith hf)
  | hostWait addr =>
    simp only [applyEvent, hostWait] at h
    refine .inl (SameSystem.faultedWith (hostReadThen_same (fun v s1 hs => ?_) h) hf)
    split
    · exact ⟨hs.cfg, hs.engines, hs.inReset⟩
    · exact hs
  | engine d => exact .inl (runEngine_faultedWith h hf)
  | answer d a =>
    obtain rfl := Host.Outcome.next.inj h
    refine .inl ?_
    split
    · exact hf
    · exact answer_faultedWith a hf
  | reset on => exact .inr (.inl ⟨on, rfl⟩)

end

/-- Settles O8, over every event. -/
theorem stickyFault : Obligations.StickyFault := by
  refine ⟨fun s s' e g g' h hg hg' hf => ?_, fun s e g w hg hf => presentWord_of_fault hg hf w⟩
  have hfault : faultedWith s e g.code := by
    intro g0 hg0
    obtain rfl := Option.some.inj (hg.symm.trans hg0)
    exact ⟨hf, rfl⟩
  cases hin : s.inputs with
  | nil => exact .inl (drain_faultedWith (step_nil hin ▸ h) hfault g' hg')
  | cons ev rest =>
    obtain hkept | ⟨on, rfl⟩ | ⟨addr, v, rfl, hl, hv⟩ :=
      applyEvent_faultedWith (s := { s with inputs := rest }) (step_cons hin ▸ h) hfault
    · exact .inl (hkept g' hg')
    · exact .inr (.inl ⟨on, rest, rfl⟩)
    · exact .inr (.inr ⟨addr, v, rest, rfl, hl, hv⟩)

/-! ## Runs (60_exceptions R284) -/

theorem Reachable.inv {s : State} (h : Reachable s) : Inv s := by
  induction h with
  | start c inputs hc => exact invAtReset.1 c inputs hc
  | step s s' _ hstep ih => exact stepKeepsInv s s' ih hstep

/-- Settles O58: every reachable state meets the invariant, where a step stops for an unmapped address only. -/
theorem runsAreSafe : Obligations.RunsAreSafe := by
  intro s h
  refine ⟨h.inv, fun f hf => ?_⟩
  obtain ⟨hfault, -⟩ := noModelFault s h.inv
  rw [hfault f hf]
  rfl

end Sys2Proof.Machine
end
